-- ==== Sys2Proof/Word.lean ====
section
/-! DEFINITION. The word types of CORE: bytes, 16-bit words, 12-bit addresses and nibbles
(00_scope.md R5, R8; 30_encoding.md R81). Every value is unsigned; there is no signed operation. -/

namespace Sys2Proof

/-- An 8-bit value: a general register, a timer, a byte of memory (R5, `XLEN`). -/
abbrev Byte := BitVec 8

/-- A 16-bit value: an instruction word, `pc`, `I`, a stack entry (R5, `ALEN`). -/
abbrev Word := BitVec 16

/-- The 12-bit address operand `nnn` (R81). -/
abbrev Addr12 := BitVec 12

/-- A 4-bit field of an instruction word (R81). -/
abbrev Nibble := BitVec 4

/-- A register index. It comes only from a 4-bit nibble, so it is always 0 to 15 (R21, R228). -/
abbrev RegIdx := BitVec 4

end Sys2Proof
end

