-- ==== Sys2Proof/Config.lean ====
section
/-! DEFINITION. The fixed parameters of CORE (00_scope.md R5) and its open ones (R6). An open
parameter is opaque: it has no body, so whatever is proved holds for every value of it. -/

namespace Sys2Proof.Config

/-- Bytes of memory, addresses 0x000 to 0xFFF (R5 `MEM_SIZE`). -/
def memSize : Nat := 4096

/-- General registers `V[0]` to `V[15]` (R5 `NREG`). -/
abbrev nReg : Nat := 16

/-- Stack entries (R5 `STACK_DEPTH`). -/
abbrev stackDepth : Nat := 16

/-- Key flags, keys 0x0 to 0xF (R5 `NKEYS`). -/
abbrev nKeys : Nat := 16

/-- Display columns (R5 `DISP_W`). -/
abbrev dispW : Nat := 64

/-- Display rows (R5 `DISP_H`). -/
abbrev dispH : Nat := 32

/-- Display cells, `DISP_W * DISP_H` (R5 `DISP_CELLS`). -/
abbrev dispCells : Nat := 2048

/-- First address of the glyph font (R5 `FONT_BASE`). -/
def fontBase : Nat := 0x000

/-- Bytes of font (R5 `FONT_SIZE`). -/
abbrev fontSize : Nat := 80

/-- Bytes per glyph (R5 `GLYPH_SIZE`). -/
def glyphSize : Nat := 5

/-- Load address and entry address of the program (R5 `PROG_BASE`). -/
def progBase : Nat := 0x200

/-- Bytes per instruction (R5 `ILEN`). -/
def iLen : Nat := 2

/-- The largest ROM that fits, `4096 - 0x200` bytes (70_reset_and_hazards.md R263). -/
def romMax : Nat := 3584

/-- OPEN (R6, R132, D18): the environment's answers to `Cxkk`, one for each execution. The counter
`State.draws` names the next answer. A free value, log entry 4. -/
opaque rnd : Nat → Byte

/-- OPEN (R6, R193, D14): `KEY_PICK`, the implementation's choice among the pressed keys (listed in
rising order). `Machine.pickKey` uses it only where it names a pressed key. Log entry 5. -/
opaque keyPick : List (Fin 16) → Fin 16

/-- OPEN (R6, R31, D6): `FONT`, the 80 bytes that `load` installs at 0x000. Log entry 6. -/
opaque font : Vector Byte 80

/-- PRESUMED (general knowledge, R31, G1): the customary glyph table, 16 glyphs of 5 bytes. No
definition of the model uses it; a test or claim that does names it as a premise. Log entry 6. -/
def defaultFont : Vector Byte 80 := #v[
  0xF0, 0x90, 0x90, 0x90, 0xF0,  0x20, 0x60, 0x20, 0x20, 0x70,
  0xF0, 0x10, 0xF0, 0x80, 0xF0,  0xF0, 0x10, 0xF0, 0x10, 0xF0,
  0x90, 0x90, 0xF0, 0x10, 0x10,  0xF0, 0x80, 0xF0, 0x10, 0xF0,
  0xF0, 0x80, 0xF0, 0x90, 0xF0,  0xF0, 0x10, 0x20, 0x40, 0x40,
  0xF0, 0x90, 0xF0, 0x90, 0xF0,  0xF0, 0x90, 0xF0, 0x10, 0xF0,
  0xF0, 0x90, 0xF0, 0x90, 0x90,  0xE0, 0x90, 0xE0, 0x90, 0xE0,
  0xF0, 0x80, 0x80, 0x80, 0xF0,  0xE0, 0x90, 0x90, 0x90, 0xE0,
  0xF0, 0x80, 0xF0, 0x80, 0xF0,  0xF0, 0x80, 0xF0, 0x80, 0x80]

end Sys2Proof.Config
end

