-- ==== Sys2Proof/Machine/State.lean ====
section
/-! DEFINITION. The state of CORE as plain data (10_state.md R20), the error record (60_exceptions.md
R221), the reasons a step can stop, the memory's canonical form, and the state after reset (R42). -/

namespace Sys2Proof.Machine

/-- Memory as (address, byte) pairs, addresses strictly rising, no zero byte listed: an unlisted
address reads 0x00, the byte reset puts there (R42 "4096 bytes, zero-initialized"). -/
abbrev Memory := List Host.Cell

/-- The canonical form: every address is in 0x000 to 0xFFF (R29), every listed byte is non-zero,
and addresses strictly rise, so that equal memories are equal lists. -/
def Memory.wf : Memory → Bool
  | [] => true
  | (a, b) :: rest =>
    decide (a < Config.memSize) && decide (b ≠ 0#8) && rest.all (fun c => decide (a < c.1))
      && Memory.wf rest

/-- The framebuffer: 2048 cells, cell `(cx, cy)` at index `64 * cy + cx` (R32). -/
abbrev Display := Vector Bool Config.dispCells

/-- An error record `(code, info)` (60_exceptions.md R221). It is latched in `State.err` by `raise`;
it is not a stop of the model: the step that raises it answers a next state (R222). -/
inductive Err where
  /-- E1: the fetched word matches none of the 35 patterns (R224). -/
  | unrecognizedInstruction (w : Word)
  /-- E2: an address the step would access is 4096 or more; the lowest such address (R225). -/
  | memoryOutOfBounds (addr : Nat)
  /-- E3: a register index of 16 or more. Reserved and never raised (R228). -/
  | registerIndexOutOfRange (idx : Nat)
  /-- E4: `00EE` with `sp = 0` (R226). -/
  | stackUnderflow
  /-- E5: `2nnn` with `sp = 16` (R227). -/
  | stackOverflow
  /-- E6: a fetch at an odd `pc` (R229). -/
  | misalignedFetch (pc : Word)
  /-- E7: `Ex9E` or `ExA1` with `V[x] >= 16` (R231). -/
  | keyIndexOutOfRange (k : Byte)
  deriving DecidableEq, Repr

/-- Why a step has no next state. -/
inductive Fault where
  /-- Raised by `2nnn` and `00EE` in a state whose `sp` exceeds 16, which holds no stack entry to use.
  The legal values of `sp` are 0 to 16 (R20, R26) and no run leaves them, so no run raises it. Safe: the
  model stops where the spec gives no behaviour (log entry 10). -/
  | illegalStackPointer (sp : Byte)
  deriving DecidableEq, Repr

/-- Why something asked of the machine is not accepted. -/
inductive Refusal where
  /-- Raised by an arm of `exec` whose instruction has no meaning yet. Safe: nothing is claimed of it. No
  arm does. -/
  | notModelled (mnemonic : String)
  /-- Raised by `load` for a ROM of more than 3584 bytes: not a transaction of the interface (R263). Safe. -/
  | romTooLong (len : Nat)
  /-- Raised by `key_down` and `key_up` for a key of 16 or more: not a transaction of the interface
  (R199). Safe. -/
  | noSuchKey (k : Nat)
  deriving DecidableEq, Repr

/-- The state of the block (R20). The last field, `draws`, is the model's own (log entry 4). -/
structure State where
  /-- Memory, 4096 bytes (R29). -/
  mem : Memory
  /-- General registers `V[0]` to `V[15]`; `V[15]` is also the flag (R21, R22). -/
  v : Vector Byte Config.nReg
  /-- Address register `I` (R25). -/
  i : Word
  /-- Program counter (R23). -/
  pc : Word
  /-- Stack pointer: entries in use, 0 to 16 (R26). -/
  sp : Byte
  /-- Return stack, outside memory (R26). -/
  stack : Vector Word Config.stackDepth
  /-- Delay timer (R34). -/
  dt : Byte
  /-- Sound timer (R34). -/
  st : Byte
  /-- Key flags: true is pressed (R33). -/
  keys : Vector Bool Config.nKeys
  /-- Display cells: true is set (R32). -/
  disp : Display
  /-- Step counter, unbounded (R35). -/
  steps : Nat
  /-- Termination flag (R36). -/
  quit : Bool
  /-- Error latch (R37). -/
  err : Option Err
  /-- MODEL'S OWN: how many answers `rnd` has been asked for; names the next free value (log entry 4). -/
  draws : Nat
  deriving DecidableEq, Repr

/-- The state after `reset` (R42, R260). `draws` is the model's own: DESIGN CHOICE 0 (log entry 4). -/
def State.reset : State where
  mem := []
  v := Vector.replicate Config.nReg 0
  i := 0x0000
  pc := 0x0200
  sp := 0
  stack := Vector.replicate Config.stackDepth 0
  dt := 0
  st := 0
  keys := Vector.replicate Config.nKeys false
  disp := Vector.replicate Config.dispCells false
  steps := 0
  quit := false
  err := none
  draws := 0

end Sys2Proof.Machine
end

