-- ==== Sys2Proof/Machine/Ops.lean ====
section
/-! DEFINITION. The named operations over state: one update per field, memory, registers, the stack,
the advance of `pc`, the end of a step, and `raise`, the one operation by which every error is taken
(60_exceptions.md R222). There is no return from an error (R233); only `reset` leaves it. -/

namespace Sys2Proof.Machine

/-- Replace memory. -/
def State.setMem (s : State) (m : Memory) : State := { s with mem := m }
/-- Replace the register file. -/
def State.setV (s : State) (v : Vector Byte Config.nReg) : State := { s with v := v }
/-- Write `I`. -/
def State.setI (s : State) (a : Word) : State := { s with i := a }
/-- Write `pc`. -/
def State.setPc (s : State) (a : Word) : State := { s with pc := a }
/-- Write `sp`. -/
def State.setSp (s : State) (b : Byte) : State := { s with sp := b }
/-- Replace the stack. -/
def State.setStack (s : State) (k : Vector Word Config.stackDepth) : State := { s with stack := k }
/-- Write `dt`. -/
def State.setDt (s : State) (b : Byte) : State := { s with dt := b }
/-- Write `st`. -/
def State.setSt (s : State) (b : Byte) : State := { s with st := b }
/-- Replace the key flags. -/
def State.setKeys (s : State) (k : Vector Bool Config.nKeys) : State := { s with keys := k }
/-- Replace the display. -/
def State.setDisp (s : State) (d : Display) : State := { s with disp := d }
/-- Write the step counter. -/
def State.setSteps (s : State) (n : Nat) : State := { s with steps := n }
/-- Write the termination flag. -/
def State.setQuit (s : State) (q : Bool) : State := { s with quit := q }
/-- Write the error latch. -/
def State.setErr (s : State) (e : Option Err) : State := { s with err := e }
/-- Write the model's own counter of `rnd` answers. -/
def State.setDraws (s : State) (n : Nat) : State := { s with draws := n }

/-- The byte at an address inside memory (20_memory.md R52); an unlisted address reads 0x00. -/
def memGet : Memory → Nat → Byte
  | [], _ => 0#8
  | (k, b) :: rest, a => if k = a then b else memGet rest a

/-- Put a byte in front of a list, unless it is the byte an unlisted address reads as. -/
def memCons (a : Nat) (v : Byte) (m : Memory) : Memory := if v = 0#8 then m else (a, v) :: m

/-- Write the byte at an address inside memory (20_memory.md R53), keeping the canonical form. -/
def memSet : Memory → Nat → Byte → Memory
  | [], a, v => memCons a v []
  | (k, b) :: rest, a, v =>
    if a < k then memCons a v ((k, b) :: rest)
    else if a = k then memCons a v rest
    else (k, b) :: memSet rest a v

/-- Write bytes at ascending addresses from `a` (20_memory.md R51, R68). -/
def storeBytes : Memory → Nat → List Byte → Memory
  | m, _, [] => m
  | m, a, b :: bs => storeBytes (memSet m a b) (a + 1) bs

/-- The error of a range of `count` byte accesses from `base`, if its highest address is 4096 or more:
`MemoryOutOfBounds` of the lowest address outside, `max(base, 4096)` (20_memory.md R54). An empty range
has none. -/
def rangeError (base count : Nat) : Option Err :=
  if 0 < count ∧ Config.memSize ≤ base + count - 1 then
    some (.memoryOutOfBounds (max base Config.memSize))
  else none

/-- Read `V[x]` (00_scope.md R9). -/
def readReg (x : RegIdx) (s : State) : Byte := s.v[x.toNat]'x.isLt

/-- Write `V[x]` (00_scope.md R9). No register is hardwired (10_state.md R21). -/
def writeReg (x : RegIdx) (b : Byte) (s : State) : State := s.setV (s.v.set x.toNat b x.isLt)

/-- Read a stack entry, `k` below 16 (10_state.md R26). -/
def stackGet (k : Nat) (s : State) : Word := s.stack[k]?.getD 0

/-- Write a stack entry, `k` below 16 (10_state.md R26). -/
def stackSet (k : Nat) (a : Word) (s : State) : State := s.setStack (s.stack.setIfInBounds k a)

/-- The level of key `k`, below 16 (10_state.md R33). -/
def keyLevel (k : Nat) (s : State) : Bool := s.keys[k]?.getD false

/-- `pc <- pc + 2`: the fetch's advance, and a taken skip's (10_state.md R23). -/
def advance (s : State) : State := s.setPc (s.pc + 2)

/-- Skip the next instruction if the condition holds (41_skips.md R110). -/
def skipIf (c : Bool) (s : State) : State := if c then advance s else s

/-- The end of a step that completes: `steps <- steps + 1` (30_encoding.md R84, 10_state.md R35). -/
def retire (s : State) : Host.Outcome State Fault Refusal := .next (s.setSteps (s.steps + 1))

/-- `raise E(info)` (60_exceptions.md R222), applied to the state before the step began: every field
keeps its value but `err`, so `pc` still addresses the faulting instruction. -/
def raise (e : Err) (s : State) : Host.Outcome State Fault Refusal := .next (s.setErr (some e))

/-- A step issued to a halted block does nothing; the latched error stays (60_exceptions.md R223). -/
def stayHalted (s : State) : Host.Outcome State Fault Refusal := .next s

/-- The CPU is held by `Fx0A`: nothing changes (45_keypad_timers.md R194). -/
def stayHeld (s : State) : Host.Outcome State Fault Refusal := .next s

/-- The code of an error, 1 to 7 for E1 to E7 (60_exceptions.md R221). -/
def errCode : Err → Nat
  | .unrecognizedInstruction _ => 1
  | .memoryOutOfBounds _ => 2
  | .registerIndexOutOfRange _ => 3
  | .stackUnderflow => 4
  | .stackOverflow => 5
  | .misalignedFetch _ => 6
  | .keyIndexOutOfRange _ => 7

end Sys2Proof.Machine
end

