-- ==== Sys2Proof/Machine/Operands.lean ====
section
/-! DEFINITION. The operand forms (30_encoding.md R83, 43_index_memory.md R157): immediates are
zero-extended, the one data addressing mode is `EA = I + i` over the integers. -/

namespace Sys2Proof.Machine

/-- `zext_16` of the 12-bit address operand (R83). -/
def zext12 (nnn : Addr12) : Word := nnn.setWidth 16

/-- `zext_16` of a byte (00_scope.md R8). -/
def zext8 (b : Byte) : Word := b.setWidth 16

/-- The flag register `V[15]` (10_state.md R22). -/
def vf : RegIdx := 0xF

/-- The offset register of `Bnnn` and the first register of `Fx55`, `Fx65` (10_state.md R21). -/
def v0 : RegIdx := 0x0

/-- The base address of the data addressing mode, as an integer: never wrapped (R157, 20_memory.md R54). -/
def baseAddr (s : State) : Nat := s.i.toNat

/-- How many registers `V[0]` to `V[x]` are (43_index_memory.md R155, R156). -/
def regCount (x : RegIdx) : Nat := x.toNat + 1

/-- The bytes of `V[0]` to `V[x]`, in order (43_index_memory.md R155). -/
def regBytes (x : RegIdx) (s : State) : List Byte := s.v.toList.take (regCount x)

/-- The register file with `V[k] = mem[base + k]` for every `k` up to `x`, the rest kept
(43_index_memory.md R156; the order of the reads is not observable, 20_memory.md R68). -/
def loadedRegs (x : RegIdx) (base : Nat) (s : State) : Vector Byte Config.nReg :=
  Vector.ofFn fun k => if k.val < regCount x then memGet s.mem (base + k.val) else s.v[k.val]

/-- The three decimal digits of a byte, hundreds first (43_index_memory.md R154). -/
def bcdDigits (b : Byte) : List Byte :=
  [BitVec.ofNat 8 (b.toNat / 100), BitVec.ofNat 8 (b.toNat / 10 % 10), BitVec.ofNat 8 (b.toNat % 10)]

/-- The address of the glyph of a digit, `5 * V[x]`, not masked (43_index_memory.md R153). -/
def glyphAddr (b : Byte) : Word := BitVec.ofNat 16 (b.toNat * Config.glyphSize)

end Sys2Proof.Machine
end

