-- ==== Sys2Proof/Machine/Flags.lean ====
section
/-! DEFINITION. The values written to `V[15]` (10_state.md R22): always 0 or 1. -/

namespace Sys2Proof.Machine

/-- A condition used as a number: 1 when true, 0 when false (00_scope.md R8). -/
def flagByte (c : Bool) : Byte := if c then 1 else 0

/-- The carry of `8xy4`: 1 exactly when the true sum exceeds 255 (42_alu.md R127, R133). -/
def carryFlag (a b : Byte) : Byte := flagByte (decide (255 < a.toNat + b.toNat))

/-- No borrow in `a - b`: 1 when `a >= b` (42_alu.md R128, R130, R133). -/
def noBorrowFlag (a b : Byte) : Byte := flagByte (decide (b.toNat ≤ a.toNat))

/-- The bit `8xy6` shifts out, bit 0 (42_alu.md R129). -/
def shiftedOutLow (a : Byte) : Byte := a &&& 1

/-- The bit `8xyE` shifts out, bit 7 before the shift (42_alu.md R131, C2). -/
def shiftedOutHigh (a : Byte) : Byte := (a &&& 0x80) >>> 7

/-- The collision flag of `Dxyn` (44_display.md R174). -/
def collisionFlag (c : Bool) : Byte := flagByte c

end Sys2Proof.Machine
end

