-- ==== Sys2Proof/Machine/Alu.lean ====
section
/-! DEFINITION. Register load, arithmetic, logic, shifts, random (42_alu.md). Statements run in the
order written, each seeing the earlier writes (10_state.md R27); it matters only for `x = 15` (R134).
No instruction of this file can raise an error (R120). -/

namespace Sys2Proof.Machine

/-- `6xkk` (R121): `V[x] <- kk`. -/
def execLdImm (x : RegIdx) (kk : Byte) (s : State) : Host.Outcome State Fault Refusal :=
  retire (writeReg x kk (advance s))

/-- `7xkk` (R122): `V[x] <- wrap8(V[x] + kk)`, no flag. -/
def execAddImm (x : RegIdx) (kk : Byte) (s : State) : Host.Outcome State Fault Refusal :=
  retire (writeReg x (readReg x s + kk) (advance s))

/-- `8xy0` (R123): `V[x] <- V[y]`. -/
def execLdReg (x y : RegIdx) (s : State) : Host.Outcome State Fault Refusal :=
  retire (writeReg x (readReg y s) (advance s))

/-- `8xy1` (R124): `V[x] <- V[x] | V[y]`, no flag. -/
def execOrReg (x y : RegIdx) (s : State) : Host.Outcome State Fault Refusal :=
  retire (writeReg x (readReg x s ||| readReg y s) (advance s))

/-- `8xy2` (R125): `V[x] <- V[x] & V[y]`, no flag. -/
def execAndReg (x y : RegIdx) (s : State) : Host.Outcome State Fault Refusal :=
  retire (writeReg x (readReg x s &&& readReg y s) (advance s))

/-- `8xy3` (R126): `V[x] <- V[x] ^ V[y]`, no flag. -/
def execXorReg (x y : RegIdx) (s : State) : Host.Outcome State Fault Refusal :=
  retire (writeReg x (readReg x s ^^^ readReg y s) (advance s))

/-- `8xy4` (R127): the sum, then the carry in `V[15]`. -/
def execAddReg (x y : RegIdx) (s : State) : Host.Outcome State Fault Refusal :=
  let a := readReg x s
  let b := readReg y s
  retire (writeReg vf (carryFlag a b) (writeReg x (a + b) (advance s)))

/-- `8xy5` (R128): `V[x] - V[y]`, then no borrow in `V[15]`. -/
def execSub (x y : RegIdx) (s : State) : Host.Outcome State Fault Refusal :=
  let a := readReg x s
  let b := readReg y s
  retire (writeReg vf (noBorrowFlag a b) (writeReg x (a - b) (advance s)))

/-- `8xy6` (R129): bit 0 to `V[15]`, then `V[x]` shifted right, reading `V[x]` after that write. The
field `y` is ignored (30_encoding.md R89). -/
def execShr (x _y : RegIdx) (s : State) : Host.Outcome State Fault Refusal :=
  let s1 := writeReg vf (shiftedOutLow (readReg x s)) (advance s)
  retire (writeReg x (readReg x s1 >>> 1) s1)

/-- `8xy7` (R130): `V[y] - V[x]`, then no borrow in `V[15]`. -/
def execSubn (x y : RegIdx) (s : State) : Host.Outcome State Fault Refusal :=
  let a := readReg x s
  let b := readReg y s
  retire (writeReg vf (noBorrowFlag b a) (writeReg x (b - a) (advance s)))

/-- `8xyE` (R131): bit 7 to `V[15]`, then `V[x]` shifted left, reading `V[x]` after that write. The
field `y` is ignored (30_encoding.md R89). -/
def execShl (x _y : RegIdx) (s : State) : Host.Outcome State Fault Refusal :=
  let s1 := writeReg vf (shiftedOutHigh (readReg x s)) (advance s)
  retire (writeReg x (readReg x s1 <<< 1) s1)

/-- `Cxkk` (R132): `V[x] <- rnd & kk`, where `rnd` is the next free value; the draw is used up. -/
def execRnd (x : RegIdx) (kk : Byte) (s : State) : Host.Outcome State Fault Refusal :=
  retire (writeReg x (Config.rnd s.draws &&& kk) ((advance s).setDraws (s.draws + 1)))

end Sys2Proof.Machine
end

