-- ==== Sys2Proof/Machine/ControlFlow.lean ====
section
/-! DEFINITION. No-op, jumps, call and return (40_control_flow.md). A meaning takes the state before
the step, at the instruction's own address, and answers the state after it. -/

namespace Sys2Proof.Machine

/-- `0000` (R101): nothing but the fetch's advance. -/
def execNop (s : State) : Host.Outcome State Fault Refusal := retire (advance s)

/-- `00EE` (R102): `sp <- sp - 1; pc <- stack[sp]`; E4 when `sp = 0` (60_exceptions.md R226). -/
def execRet (s : State) : Host.Outcome State Fault Refusal :=
  if s.sp = 0#8 then raise .stackUnderflow s
  else if Config.stackDepth < s.sp.toNat then .fault (.illegalStackPointer s.sp)
  else
    let s1 := advance s
    let s2 := s1.setSp (s1.sp - 1)
    retire (s2.setPc (stackGet s2.sp.toNat s2))

/-- `1nnn` (R103): `pc <- nnn`, not checked here. -/
def execJp (nnn : Addr12) (s : State) : Host.Outcome State Fault Refusal :=
  retire ((advance s).setPc (zext12 nnn))

/-- `2nnn` (R104): push the address after the call, then jump; E5 when `sp = 16`
(60_exceptions.md R227). -/
def execCall (nnn : Addr12) (s : State) : Host.Outcome State Fault Refusal :=
  if s.sp = 16#8 then raise .stackOverflow s
  else if Config.stackDepth < s.sp.toNat then .fault (.illegalStackPointer s.sp)
  else
    let s1 := advance s
    let s2 := stackSet s1.sp.toNat s1.pc s1
    let s3 := s2.setSp (s2.sp + 1)
    retire (s3.setPc (zext12 nnn))

/-- `Bnnn` (R105): `pc <- nnn + V[0]`, a 16-bit sum that is not masked. -/
def execJpV0 (nnn : Addr12) (s : State) : Host.Outcome State Fault Refusal :=
  retire ((advance s).setPc (zext12 nnn + zext8 (readReg v0 s)))

end Sys2Proof.Machine
end

