-- ==== Sys2Proof/Machine/Display.lean ====
section
/-! DEFINITION. The display instructions and the XOR-draw engine (44_display.md). -/

namespace Sys2Proof.Machine

/-- The cell of a pixel position, wrapped modulo 64 and 32 (R172, 10_state.md R32). -/
def cellIndex (px py : Nat) : Fin Config.dispCells :=
  ⟨64 * (py % 32) + px % 64, by
    have h1 := Nat.mod_lt py (show 0 < 32 by decide)
    have h2 := Nat.mod_lt px (show 0 < 64 by decide)
    show 64 * (py % 32) + px % 64 < 2048
    omega⟩

/-- Column `col` of a sprite byte: bit 7 is column 0 (R173). -/
def spriteBit (bits : Byte) (col : Nat) : Bool := bits.getLsbD (7 - col)

/-- One pixel of a draw: a set sprite bit on a true cell is a collision, and flips the cell; a clear
sprite bit touches nothing (R173, R174). The pair is the display and the collision so far. -/
def drawPixel (px py : Nat) (bit : Bool) (acc : Display × Bool) : Display × Bool :=
  if bit then
    let idx := cellIndex px py
    (acc.1.set idx (!acc.1[idx]), acc.2 || acc.1[idx])
  else acc

/-- One row of a draw, columns 0 to 7 (R173). -/
def drawRow (vx py : Nat) (bits : Byte) (acc : Display × Bool) : Display × Bool :=
  (List.range 8).foldl (fun p col => drawPixel (vx + col) py (spriteBit bits col) p) acc

/-- A whole draw: `n` rows read at `base`, `base + 1`, ... (R173). -/
def drawSprite (m : Memory) (base vx vy n : Nat) (d : Display) : Display × Bool :=
  (List.range n).foldl (fun p row => drawRow vx (vy + row) (memGet m (base + row)) p) (d, false)

/-- `00E0` (R171): every cell false. -/
def execCls (s : State) : Host.Outcome State Fault Refusal :=
  retire ((advance s).setDisp (Vector.replicate Config.dispCells false))

/-- `Dxyn` (R173): the coordinates are read before `V[15]` is written; E2 when `n > 0` and
`I + n - 1 >= 4096`. -/
def execDrw (x y : RegIdx) (n : Nat) (s : State) : Host.Outcome State Fault Refusal :=
  match rangeError (baseAddr s) n with
  | some e => raise e s
  | none =>
    let r := drawSprite s.mem (baseAddr s) (readReg x s).toNat (readReg y s).toNat n s.disp
    retire (writeReg vf (collisionFlag r.2) ((advance s).setDisp r.1))

end Sys2Proof.Machine
end

