-- ==== Sys2Proof/Machine/IndexMemory.lean ====
section
/-! DEFINITION. Address register and memory instructions (43_index_memory.md). `I` is unchanged by
the memory instructions (R150); the whole range is checked before anything is written
(20_memory.md R54). -/

namespace Sys2Proof.Machine

/-- `Annn` (R151): `I <- nnn`. -/
def execLdI (nnn : Addr12) (s : State) : Host.Outcome State Fault Refusal :=
  retire ((advance s).setI (zext12 nnn))

/-- `Fx1E` (R152): `I <- wrap16(I + V[x])`, no flag. -/
def execAddI (x : RegIdx) (s : State) : Host.Outcome State Fault Refusal :=
  retire ((advance s).setI (s.i + zext8 (readReg x s)))

/-- `Fx29` (R153): `I <- 5 * V[x]`. -/
def execLdF (x : RegIdx) (s : State) : Host.Outcome State Fault Refusal :=
  retire ((advance s).setI (glyphAddr (readReg x s)))

/-- `Fx33` (R154): three decimal digits to `I`, `I+1`, `I+2`; E2 when `I + 2 >= 4096`. -/
def execLdB (x : RegIdx) (s : State) : Host.Outcome State Fault Refusal :=
  match rangeError (baseAddr s) 3 with
  | some e => raise e s
  | none => retire ((advance s).setMem (storeBytes s.mem (baseAddr s) (bcdDigits (readReg x s))))

/-- `Fx55` (R155): `V[0]` to `V[x]` to `I` to `I + x`; E2 when `I + x >= 4096`. -/
def execStRegs (x : RegIdx) (s : State) : Host.Outcome State Fault Refusal :=
  match rangeError (baseAddr s) (regCount x) with
  | some e => raise e s
  | none => retire ((advance s).setMem (storeBytes s.mem (baseAddr s) (regBytes x s)))

/-- `Fx65` (R156): `I` to `I + x` to `V[0]` to `V[x]`; E2 when `I + x >= 4096`. -/
def execLdRegs (x : RegIdx) (s : State) : Host.Outcome State Fault Refusal :=
  match rangeError (baseAddr s) (regCount x) with
  | some e => raise e s
  | none => retire ((advance s).setV (loadedRegs x (baseAddr s) s))

end Sys2Proof.Machine
end

