-- ==== Sys2Proof/Syntax.lean ====
section
/-! DEFINITION. The 35 instruction patterns of CORE (30_encoding.md R86), one constructor a row of
spec/opcode_table.json, in its order. Operands as R83: `nnn` 12 bits, `kk` 8 bits, `x` and `y`
register indices of 4 bits, `n` a row count. -/

namespace Sys2Proof

/-- An instruction. Each constructor's docstring gives its hexadecimal pattern, its normative name (R92). -/
inductive Instr where
  /-- `0000`, NOP (R101). -/
  | nop
  /-- `00E0`, CLS (R171). -/
  | cls
  /-- `00EE`, RET (R102). -/
  | ret
  /-- `1nnn`, JP nnn (R103). -/
  | jp (nnn : Addr12)
  /-- `2nnn`, CALL nnn (R104). -/
  | call (nnn : Addr12)
  /-- `3xkk`, SE Vx, kk (R111). -/
  | seImm (x : RegIdx) (kk : Byte)
  /-- `4xkk`, SNE Vx, kk (R112). -/
  | sneImm (x : RegIdx) (kk : Byte)
  /-- `5xy0`, SE Vx, Vy (R113). -/
  | seReg (x y : RegIdx)
  /-- `6xkk`, LD Vx, kk (R121). -/
  | ldImm (x : RegIdx) (kk : Byte)
  /-- `7xkk`, ADD Vx, kk (R122). -/
  | addImm (x : RegIdx) (kk : Byte)
  /-- `8xy0`, LD Vx, Vy (R123). -/
  | ldReg (x y : RegIdx)
  /-- `8xy1`, OR Vx, Vy (R124). -/
  | orReg (x y : RegIdx)
  /-- `8xy2`, AND Vx, Vy (R125). -/
  | andReg (x y : RegIdx)
  /-- `8xy3`, XOR Vx, Vy (R126). -/
  | xorReg (x y : RegIdx)
  /-- `8xy4`, ADD Vx, Vy (R127). -/
  | addReg (x y : RegIdx)
  /-- `8xy5`, SUB Vx, Vy (R128). -/
  | sub (x y : RegIdx)
  /-- `8xy6`, SHR Vx (R129). The field `y` is carried and ignored (R89). -/
  | shr (x y : RegIdx)
  /-- `8xy7`, SUBN Vx, Vy (R130). -/
  | subn (x y : RegIdx)
  /-- `8xyE`, SHL Vx (R131). The field `y` is carried and ignored (R89). -/
  | shl (x y : RegIdx)
  /-- `9xy0`, SNE Vx, Vy (R114). -/
  | sneReg (x y : RegIdx)
  /-- `Annn`, LD I, nnn (R151). -/
  | ldI (nnn : Addr12)
  /-- `Bnnn`, JP V0, nnn (R105). -/
  | jpV0 (nnn : Addr12)
  /-- `Cxkk`, RND Vx, kk (R132). -/
  | rnd (x : RegIdx) (kk : Byte)
  /-- `Dxyn`, DRW Vx, Vy, n (R173). The row count `n` is 0 to 15 (`WellFormed`). -/
  | drw (x y : RegIdx) (n : Nat)
  /-- `Ex9E`, SKP Vx (R191). -/
  | skp (x : RegIdx)
  /-- `ExA1`, SKNP Vx (R192). -/
  | sknp (x : RegIdx)
  /-- `Fx07`, LD Vx, DT (R195). -/
  | ldVxDt (x : RegIdx)
  /-- `Fx0A`, LD Vx, K (R193). -/
  | ldVxK (x : RegIdx)
  /-- `Fx15`, LD DT, Vx (R196). -/
  | ldDtVx (x : RegIdx)
  /-- `Fx18`, LD ST, Vx (R197). -/
  | ldStVx (x : RegIdx)
  /-- `Fx1E`, ADD I, Vx (R152). -/
  | addI (x : RegIdx)
  /-- `Fx29`, LD F, Vx (R153). -/
  | ldF (x : RegIdx)
  /-- `Fx33`, LD B, Vx (R154). -/
  | ldB (x : RegIdx)
  /-- `Fx55`, LD [I], Vx (R155). -/
  | stRegs (x : RegIdx)
  /-- `Fx65`, LD Vx, [I] (R156). -/
  | ldRegs (x : RegIdx)
  deriving DecidableEq, Repr

end Sys2Proof
end

