-- ==== Sys2Proof/WellFormed.lean ====
section
/-! DEFINITION. Which terms the hardware has: instructions whose count fits its field, ROMs that fit
memory, keys that exist. The widths of the other operands are carried by their types (R83, R228). -/

namespace Sys2Proof

/-- The check on an instruction: the row count of `Dxyn` is 0 to 15 (30_encoding.md R83). -/
def Instr.wellFormed : Instr → Bool
  | .drw _ _ n => decide (n < 16)
  | .nop | .cls | .ret | .jp _ | .call _ | .seImm _ _ | .sneImm _ _ | .seReg _ _
  | .ldImm _ _ | .addImm _ _ | .ldReg _ _ | .orReg _ _ | .andReg _ _ | .xorReg _ _
  | .addReg _ _ | .sub _ _ | .shr _ _ | .subn _ _ | .shl _ _ | .sneReg _ _ | .ldI _
  | .jpV0 _ | .rnd _ _ | .skp _ | .sknp _ | .ldVxDt _ | .ldVxK _ | .ldDtVx _ | .ldStVx _
  | .addI _ | .ldF _ | .ldB _ | .stRegs _ | .ldRegs _ => true

/-- An instruction the hardware has. -/
abbrev WellFormed (i : Instr) : Prop := i.wellFormed = true

/-- The check on a ROM: at most 3584 bytes, so that it ends at 0xFFF (70_reset_and_hazards.md R263). -/
def romFits (rom : List Byte) : Bool := decide (rom.length ≤ Config.romMax)

/-- The check on a key number: keys are 0 to 15 (45_keypad_timers.md R199). -/
def keyExists (k : Nat) : Bool := decide (k < Config.nKeys)

end Sys2Proof
end

