-- ==== Sys2Proof/Machine/KeypadTimers.lean ====
section
/-! DEFINITION. Keypad and timer instructions, the timer decrement unit and the keypad state machine
(45_keypad_timers.md). -/

namespace Sys2Proof.Machine

/-- `Ex9E` (R191): skip if key `V[x]` is pressed; E7 when `V[x] >= 16`. -/
def execSkp (x : RegIdx) (s : State) : Host.Outcome State Fault Refusal :=
  let k := readReg x s
  if Config.nKeys ≤ k.toNat then raise (.keyIndexOutOfRange k) s
  else retire (skipIf (keyLevel k.toNat s) (advance s))

/-- `ExA1` (R192): skip if key `V[x]` is not pressed; E7 when `V[x] >= 16`. -/
def execSknp (x : RegIdx) (s : State) : Host.Outcome State Fault Refusal :=
  let k := readReg x s
  if Config.nKeys ≤ k.toNat then raise (.keyIndexOutOfRange k) s
  else retire (skipIf (!keyLevel k.toNat s) (advance s))

/-- `Fx07` (R195): `V[x] <- dt`. -/
def execLdVxDt (x : RegIdx) (s : State) : Host.Outcome State Fault Refusal :=
  retire (writeReg x s.dt (advance s))

/-- The pressed keys, in rising order (R193, the set `P`). -/
def pressedKeys (s : State) : List (Fin 16) :=
  (List.finRange 16).filter (fun k => keyLevel k.val s)

/-- `KEY_PICK` of the pressed keys (R193): none if there is none, the key itself if there is one;
among several the open choice `Config.keyPick`, the lowest key standing in where that names no pressed
key. So every choice function is some value of `Config.keyPick`, and the result is always a member. -/
def pickKey : List (Fin 16) → Option (Fin 16)
  | [] => none
  | [k] => some k
  | k :: k' :: ks =>
    let p := Config.keyPick (k :: k' :: ks)
    some (if p ∈ k :: k' :: ks then p else k)

/-- `Fx0A` (R193, R194): held while no key is down; else `V[x] <- KEY_PICK(P)`. -/
def execLdVxK (x : RegIdx) (s : State) : Host.Outcome State Fault Refusal :=
  match pickKey (pressedKeys s) with
  | none => stayHeld s
  | some k => retire (writeReg x (BitVec.ofNat 8 k.val) (advance s))

/-- `Fx15` (R196): `dt <- V[x]`. -/
def execLdDtVx (x : RegIdx) (s : State) : Host.Outcome State Fault Refusal :=
  retire ((advance s).setDt (readReg x s))

/-- `Fx18` (R197): `st <- V[x]`. -/
def execLdStVx (x : RegIdx) (s : State) : Host.Outcome State Fault Refusal :=
  retire ((advance s).setSt (readReg x s))

/-- One count down, floored at 0 (R198). -/
def countDown (b : Byte) : Byte := if b = 0#8 then 0#8 else b - 1#8

/-- `tick` (R198): both timers one down; nothing else changes. -/
def tick (s : State) : State := (s.setDt (countDown s.dt)).setSt (countDown s.st)

/-- Set the level of a key, `k` below 16 (R199, R200). -/
def setKey (k : Nat) (b : Bool) (s : State) : State := s.setKeys (s.keys.setIfInBounds k b)

/-- `key_down(k)` (R199). A key of 16 or more is not a transaction. -/
def keyDown (k : Nat) (s : State) : Host.Outcome State Fault Refusal :=
  if keyExists k then .next (setKey k true s) else .refused (.noSuchKey k)

/-- `key_up(k)` (R200). A key of 16 or more is not a transaction. -/
def keyUp (k : Nat) (s : State) : Host.Outcome State Fault Refusal :=
  if keyExists k then .next (setKey k false s) else .refused (.noSuchKey k)

end Sys2Proof.Machine
end

