-- ==== Sys2Proof/Machine/Skips.lean ====
section
/-! DEFINITION. The conditional skips on register values (41_skips.md R110): a taken skip leaves
`pc` 4 past the instruction, one not taken 2 past it. -/

namespace Sys2Proof.Machine

/-- `3xkk` (R111): skip if `V[x] = kk`. -/
def execSeImm (x : RegIdx) (kk : Byte) (s : State) : Host.Outcome State Fault Refusal :=
  retire (skipIf (readReg x s == kk) (advance s))

/-- `4xkk` (R112): skip if `V[x] != kk`. -/
def execSneImm (x : RegIdx) (kk : Byte) (s : State) : Host.Outcome State Fault Refusal :=
  retire (skipIf (readReg x s != kk) (advance s))

/-- `5xy0` (R113): skip if `V[x] = V[y]`. -/
def execSeReg (x y : RegIdx) (s : State) : Host.Outcome State Fault Refusal :=
  retire (skipIf (readReg x s == readReg y s) (advance s))

/-- `9xy0` (R114): skip if `V[x] != V[y]`. -/
def execSneReg (x y : RegIdx) (s : State) : Host.Outcome State Fault Refusal :=
  retire (skipIf (readReg x s != readReg y s) (advance s))

end Sys2Proof.Machine
end

