-- ==== Sys2Proof/Decode.lean ====
section
/-! DEFINITION. Byte order, fields, dispatch and the encoder (30_encoding.md). `decodeWord` is the
`Dispatch` of R85, total on all 65536 words; `decode` reads it from bytes; `encode` is its inverse
(R95); `opcodeRows` is the opcode map of R86. -/

namespace Sys2Proof

/-- The word of two consecutive bytes, the one at the lower address high (20_memory.md R51). -/
def wordOfBytes (hi lo : Byte) : Word := hi ++ lo

/-- The byte at the lower address of a stored word (R51). -/
def highByte (w : Word) : Byte := w.extractLsb' 8 8

/-- The byte at the higher address of a stored word (R51). -/
def lowByte (w : Word) : Byte := w.extractLsb' 0 8

/-- Field `a`, bits 15:12, the major opcode (R81). -/
def fieldA (w : Word) : Nibble := w.extractLsb' 12 4

/-- Field `b`, bits 11:8, which is `x` (R81). -/
def fieldB (w : Word) : Nibble := w.extractLsb' 8 4

/-- Field `c`, bits 7:4, which is `y` (R81). -/
def fieldC (w : Word) : Nibble := w.extractLsb' 4 4

/-- Field `d`, bits 3:0, which is `n` (R81). -/
def fieldD (w : Word) : Nibble := w.extractLsb' 0 4

/-- Field `nnn`, bits 11:0 (R81). -/
def fieldNnn (w : Word) : Addr12 := w.extractLsb' 0 12

/-- Field `kk`, bits 7:0 (R81). -/
def fieldKk (w : Word) : Byte := w.extractLsb' 0 8

/-- Major opcode 0: three fixed words, every other `0nnn` is illegal (R85, R88). -/
def dispatch0 (b c d : Nibble) : Option Instr :=
  if b = 0x0 ∧ c = 0x0 ∧ d = 0x0 then some .nop
  else if b = 0x0 ∧ c = 0xE ∧ d = 0x0 then some .cls
  else if b = 0x0 ∧ c = 0xE ∧ d = 0xE then some .ret
  else none

/-- Major opcode 8: the sub-opcode is `d` (R85). -/
def dispatch8 (x y d : Nibble) : Option Instr :=
  match d.toNat with
  | 0x0 => some (.ldReg x y)
  | 0x1 => some (.orReg x y)
  | 0x2 => some (.andReg x y)
  | 0x3 => some (.xorReg x y)
  | 0x4 => some (.addReg x y)
  | 0x5 => some (.sub x y)
  | 0x6 => some (.shr x y)
  | 0x7 => some (.subn x y)
  | 0xE => some (.shl x y)
  | _ => none

/-- Major opcode E: the sub-opcode is `(c, d)` (R85). -/
def dispatchE (x c d : Nibble) : Option Instr :=
  if c = 0x9 ∧ d = 0xE then some (.skp x)
  else if c = 0xA ∧ d = 0x1 then some (.sknp x)
  else none

/-- Major opcode F: the sub-opcode is `(c, d)` (R85). -/
def dispatchF (x c d : Nibble) : Option Instr :=
  if c = 0x0 ∧ d = 0x7 then some (.ldVxDt x)
  else if c = 0x0 ∧ d = 0xA then some (.ldVxK x)
  else if c = 0x1 ∧ d = 0x5 then some (.ldDtVx x)
  else if c = 0x1 ∧ d = 0x8 then some (.ldStVx x)
  else if c = 0x1 ∧ d = 0xE then some (.addI x)
  else if c = 0x2 ∧ d = 0x9 then some (.ldF x)
  else if c = 0x3 ∧ d = 0x3 then some (.ldB x)
  else if c = 0x5 ∧ d = 0x5 then some (.stRegs x)
  else if c = 0x6 ∧ d = 0x5 then some (.ldRegs x)
  else none

/-- `Dispatch` (R85) on the fields of a word: the instruction, or `none` for an illegal word (R88). -/
def decodeWord (w : Word) : Option Instr :=
  let b := fieldB w
  let c := fieldC w
  let d := fieldD w
  match (fieldA w).toNat with
  | 0x0 => dispatch0 b c d
  | 0x1 => some (.jp (fieldNnn w))
  | 0x2 => some (.call (fieldNnn w))
  | 0x3 => some (.seImm b (fieldKk w))
  | 0x4 => some (.sneImm b (fieldKk w))
  | 0x5 => if d = 0x0 then some (.seReg b c) else none
  | 0x6 => some (.ldImm b (fieldKk w))
  | 0x7 => some (.addImm b (fieldKk w))
  | 0x8 => dispatch8 b c d
  | 0x9 => if d = 0x0 then some (.sneReg b c) else none
  | 0xA => some (.ldI (fieldNnn w))
  | 0xB => some (.jpV0 (fieldNnn w))
  | 0xC => some (.rnd b (fieldKk w))
  | 0xD => some (.drw b c d.toNat)
  | 0xE => dispatchE b c d
  | _ => dispatchF b c d

/-- Why bytes give no instruction. -/
inductive Reject where
  /-- Fewer than two bytes are left. Safe: nothing is decoded. -/
  | truncated
  /-- The word matches none of the 35 patterns (R88), the cause of E1 (60_exceptions.md R224). -/
  | unrecognized (w : Word)
  deriving DecidableEq, Repr

/-- The instruction at the head of a byte string, high byte first (R80, R51), and the rest. -/
def decode : List Byte → Except Reject (Instr × List Byte)
  | hi :: lo :: rest =>
    match decodeWord (wordOfBytes hi lo) with
    | some i => .ok (i, rest)
    | none => .error (.unrecognized (wordOfBytes hi lo))
  | [_] => .error .truncated
  | [] => .error .truncated

/-- Format A (R82): a major nibble and a 12-bit address. -/
def formatA (a : Nibble) (nnn : Addr12) : Word := a ++ nnn

/-- Format XK, and XS with a fixed low byte (R82): a major nibble, a register and a byte. -/
def formatXK (a : Nibble) (x : RegIdx) (kk : Byte) : Word := (a ++ x : BitVec 8) ++ kk

/-- Formats XY and XYN (R82): a major nibble, two registers and a low nibble. -/
def formatXY (a : Nibble) (x y : RegIdx) (d : Nibble) : Word :=
  (a ++ x : BitVec 8) ++ (y ++ d : BitVec 8)

/-- The word of an instruction (R95, R82, R86). -/
def encode : Instr → Word
  | .nop => 0x0000
  | .cls => 0x00E0
  | .ret => 0x00EE
  | .jp nnn => formatA 0x1 nnn
  | .call nnn => formatA 0x2 nnn
  | .seImm x kk => formatXK 0x3 x kk
  | .sneImm x kk => formatXK 0x4 x kk
  | .seReg x y => formatXY 0x5 x y 0x0
  | .ldImm x kk => formatXK 0x6 x kk
  | .addImm x kk => formatXK 0x7 x kk
  | .ldReg x y => formatXY 0x8 x y 0x0
  | .orReg x y => formatXY 0x8 x y 0x1
  | .andReg x y => formatXY 0x8 x y 0x2
  | .xorReg x y => formatXY 0x8 x y 0x3
  | .addReg x y => formatXY 0x8 x y 0x4
  | .sub x y => formatXY 0x8 x y 0x5
  | .shr x y => formatXY 0x8 x y 0x6
  | .subn x y => formatXY 0x8 x y 0x7
  | .shl x y => formatXY 0x8 x y 0xE
  | .sneReg x y => formatXY 0x9 x y 0x0
  | .ldI nnn => formatA 0xA nnn
  | .jpV0 nnn => formatA 0xB nnn
  | .rnd x kk => formatXK 0xC x kk
  | .drw x y n => formatXY 0xD x y (BitVec.ofNat 4 n)
  | .skp x => formatXK 0xE x 0x9E
  | .sknp x => formatXK 0xE x 0xA1
  | .ldVxDt x => formatXK 0xF x 0x07
  | .ldVxK x => formatXK 0xF x 0x0A
  | .ldDtVx x => formatXK 0xF x 0x15
  | .ldStVx x => formatXK 0xF x 0x18
  | .addI x => formatXK 0xF x 0x1E
  | .ldF x => formatXK 0xF x 0x29
  | .ldB x => formatXK 0xF x 0x33
  | .stRegs x => formatXK 0xF x 0x55
  | .ldRegs x => formatXK 0xF x 0x65

/-- The stored bytes of an instruction, in address order (R80, R51). -/
def encodeBytes (i : Instr) : List Byte := [highByte (encode i), lowByte (encode i)]

/-- The pattern of an instruction, its normative name (R86, R92). -/
def pattern : Instr → String
  | .nop => "0000"
  | .cls => "00E0"
  | .ret => "00EE"
  | .jp _ => "1nnn"
  | .call _ => "2nnn"
  | .seImm _ _ => "3xkk"
  | .sneImm _ _ => "4xkk"
  | .seReg _ _ => "5xy0"
  | .ldImm _ _ => "6xkk"
  | .addImm _ _ => "7xkk"
  | .ldReg _ _ => "8xy0"
  | .orReg _ _ => "8xy1"
  | .andReg _ _ => "8xy2"
  | .xorReg _ _ => "8xy3"
  | .addReg _ _ => "8xy4"
  | .sub _ _ => "8xy5"
  | .shr _ _ => "8xy6"
  | .subn _ _ => "8xy7"
  | .shl _ _ => "8xyE"
  | .sneReg _ _ => "9xy0"
  | .ldI _ => "Annn"
  | .jpV0 _ => "Bnnn"
  | .rnd _ _ => "Cxkk"
  | .drw _ _ _ => "Dxyn"
  | .skp _ => "Ex9E"
  | .sknp _ => "ExA1"
  | .ldVxDt _ => "Fx07"
  | .ldVxK _ => "Fx0A"
  | .ldDtVx _ => "Fx15"
  | .ldStVx _ => "Fx18"
  | .addI _ => "Fx1E"
  | .ldF _ => "Fx29"
  | .ldB _ => "Fx33"
  | .stRegs _ => "Fx55"
  | .ldRegs _ => "Fx65"

/-- A row of the opcode map (R86): a pattern with its mask and match. -/
structure OpcodeRow where
  name : String
  mask : Word
  value : Word
  deriving DecidableEq, Repr

/-- A word is an instance of a row's pattern when `(w & mask) = match` (R86). -/
def OpcodeRow.matches (r : OpcodeRow) (w : Word) : Bool := w &&& r.mask == r.value

/-- Rows 1 to 20 of the opcode map (R86). -/
def opcodeRowsLow : List OpcodeRow :=
  [⟨"0000", 0xFFFF, 0x0000⟩, ⟨"00E0", 0xFFFF, 0x00E0⟩, ⟨"00EE", 0xFFFF, 0x00EE⟩,
   ⟨"1nnn", 0xF000, 0x1000⟩, ⟨"2nnn", 0xF000, 0x2000⟩, ⟨"3xkk", 0xF000, 0x3000⟩,
   ⟨"4xkk", 0xF000, 0x4000⟩, ⟨"5xy0", 0xF00F, 0x5000⟩, ⟨"6xkk", 0xF000, 0x6000⟩,
   ⟨"7xkk", 0xF000, 0x7000⟩, ⟨"8xy0", 0xF00F, 0x8000⟩, ⟨"8xy1", 0xF00F, 0x8001⟩,
   ⟨"8xy2", 0xF00F, 0x8002⟩, ⟨"8xy3", 0xF00F, 0x8003⟩, ⟨"8xy4", 0xF00F, 0x8004⟩,
   ⟨"8xy5", 0xF00F, 0x8005⟩, ⟨"8xy6", 0xF00F, 0x8006⟩, ⟨"8xy7", 0xF00F, 0x8007⟩,
   ⟨"8xyE", 0xF00F, 0x800E⟩, ⟨"9xy0", 0xF00F, 0x9000⟩]

/-- Rows 21 to 35 of the opcode map (R86). -/
def opcodeRowsHigh : List OpcodeRow :=
  [⟨"Annn", 0xF000, 0xA000⟩, ⟨"Bnnn", 0xF000, 0xB000⟩, ⟨"Cxkk", 0xF000, 0xC000⟩,
   ⟨"Dxyn", 0xF000, 0xD000⟩, ⟨"Ex9E", 0xF0FF, 0xE09E⟩, ⟨"ExA1", 0xF0FF, 0xE0A1⟩,
   ⟨"Fx07", 0xF0FF, 0xF007⟩, ⟨"Fx0A", 0xF0FF, 0xF00A⟩, ⟨"Fx15", 0xF0FF, 0xF015⟩,
   ⟨"Fx18", 0xF0FF, 0xF018⟩, ⟨"Fx1E", 0xF0FF, 0xF01E⟩, ⟨"Fx29", 0xF0FF, 0xF029⟩,
   ⟨"Fx33", 0xF0FF, 0xF033⟩, ⟨"Fx55", 0xF0FF, 0xF055⟩, ⟨"Fx65", 0xF0FF, 0xF065⟩]

/-- The complete set of instruction patterns, 35 rows (R86, R87). -/
def opcodeRows : List OpcodeRow := opcodeRowsLow ++ opcodeRowsHigh

/-- The instruction whose bits are `w`, numbered as spec/opcode_table.json numbers them, in an
instruction of `nbits` bits. Every instruction is one 16-bit word, so its word is the number; it is
laid out high byte first (R80, R51) and decoded. A number with a bit above the word is refused. -/
def decodeTableWord (nbits w : Nat) : Option Instr :=
  if w % 2 ^ nbits < 65536 then
    let word : Word := BitVec.ofNat 16 (w % 2 ^ nbits)
    match decode [highByte word, lowByte word] with
    | .ok (i, _) => some i
    | .error _ => none
  else none

end Sys2Proof
end

