-- ==== Sys2Proof/Machine/Fetch.lean ====
section
/-! DEFINITION. The instruction fetch (20_memory.md R55, R56), fetch and dispatch together
(30_encoding.md R84), and placing a word where the next fetch reads it. -/

namespace Sys2Proof.Machine

/-- `Fetch()` without the advance of `pc`, which each instruction makes first: alignment is checked
before bounds (R56, 60_exceptions.md R232). -/
def fetchWord (s : State) : Except Err Word :=
  if s.pc.getLsbD 0 then .error (.misalignedFetch s.pc)
  else
    match rangeError s.pc.toNat Config.iLen with
    | some e => .error e
    | none => .ok (wordOfBytes (memGet s.mem s.pc.toNat) (memGet s.mem (s.pc.toNat + 1)))

/-- Fetch, then `Dispatch`: the instruction at `pc`, or the error of this part of the step, in the
order of 60_exceptions.md R232. -/
def fetchInstr (s : State) : Except Err Instr :=
  match fetchWord s with
  | .error e => .error e
  | .ok w =>
    match decodeWord w with
    | some i => .ok i
    | none => .error (.unrecognizedInstruction w)

/-- `pc` is a place the fetch can read: even and at most 0x0FFE (R56). -/
def fetchable (pc : Word) : Bool := !pc.getLsbD 0 && decide (pc.toNat + 1 < Config.memSize)

/-- Store a word at an address, high byte first (R51). -/
def storeWord (m : Memory) (a : Nat) (w : Word) : Memory := storeBytes m a [highByte w, lowByte w]

/-- `s` with the word at the place the next fetch reads. Where `pc` is not fetchable or an error is
latched, no fetch can happen, so `pc` becomes the entry address and the latch is cleared. -/
def placeWord (s : State) (w : Word) : State :=
  let pc : Word := if fetchable s.pc then s.pc else BitVec.ofNat 16 Config.progBase
  ((s.setPc pc).setErr none).setMem (storeWord s.mem pc.toNat w)

end Sys2Proof.Machine
end

