-- ==== Sys2Proof/Machine/Step.lean ====
section
/-! DEFINITION. One step of the CPU (30_encoding.md R84) and the placing of a word for the next one. -/

namespace Sys2Proof.Machine

/-- `Step()` (R84): a halted block stays as it is (60_exceptions.md R223); else fetch, dispatch, execute.
An error of the fetch or of dispatch is raised here, one of an instruction by its meaning. -/
def step (s : State) : Host.Outcome State Fault Refusal :=
  match s.err with
  | some _ => stayHalted s
  | none =>
    match fetchInstr s with
    | .error e => raise e s
    | .ok i => exec i s

/-- `s` with the instruction whose bits are `w` (of `nbits` bits, bit 0 least significant) stored where
`step` fetches next, high byte first. Log entry 8. -/
def State.withFetchWord (s : State) (nbits w : Nat) : State :=
  placeWord s (BitVec.ofNat 16 (w % 2 ^ nbits))

end Sys2Proof.Machine
end

