-- ==== Sys2Proof/Machine/RunControl.lean ====
section
/-! DEFINITION. The block's interface (10_state.md R40): reset and load, quit, run, the host's reads,
the conditions of the CPU, and every state-changing transaction as data. -/

namespace Sys2Proof.Machine

/-- `reset` (70_reset_and_hazards.md R260): every field of the spec at its reset value. The model's own
counter of `rnd` answers goes on, so an answer is fresh after a reset too (log entry 4). -/
def resetBlock (s : State) : State := State.reset.setDraws s.draws

/-- `load` with a given font (R262): the font at 0x000, the ROM at 0x200, nothing else. -/
def loadWith (font : Vector Byte 80) (rom : List Byte) (s : State) : Host.Outcome State Fault Refusal :=
  if romFits rom then
    .next (s.setMem
      (storeBytes (storeBytes s.mem Config.fontBase font.toList) Config.progBase rom))
  else .refused (.romTooLong rom.length)

/-- `load(ROM)` (R262) with the hardware's own font, an open parameter (R6, D6). -/
def load (rom : List Byte) (s : State) : Host.Outcome State Fault Refusal :=
  loadWith Config.font rom s

/-- `quit` (60_exceptions.md R237). -/
def requestQuit (s : State) : State := s.setQuit true

/-- The host's display snapshot (10_state.md R32, R40). -/
def displaySnapshot (s : State) : Display := s.disp

/-- The host's `get_steps` (10_state.md R35, R40). -/
def getSteps (s : State) : Nat := s.steps

/-- The host's error report (10_state.md R37, R40). -/
def errorReport (s : State) : Option Err := s.err

/-- Is this instruction the wait for a key, `Fx0A` (45_keypad_timers.md R194)? -/
def isKeyWait (i : Instr) : Bool := pattern i == "Fx0A"

/-- The hold (45_keypad_timers.md R194): no error, an `Fx0A` at a `pc` the fetch can read, no key down. -/
def held (s : State) : Bool :=
  s.err.isNone &&
    match fetchInstr s with
    | .ok i => isKeyWait i && (pressedKeys s).isEmpty
    | .error _ => false

/-- The four conditions of the CPU (60_exceptions.md R242). -/
inductive Condition where
  /-- An error is latched; left only by `reset`. -/
  | halted
  /-- Waiting in `Fx0A` for a key. -/
  | held
  /-- `quit` is set, so a `run` returns at its next test. DESIGN CHOICE, log entry 13: R242 speaks of a `run`
  that has returned, which no field of the state records. -/
  | stopped
  /-- None of the others. -/
  | running
  deriving DecidableEq, Repr

/-- The condition of a state (R242: "each a function of the state"). DESIGN CHOICE, log entry 13: every state
with `quit` set that is neither halted nor held is called stopped, whether or not a `run` has returned; a state
that is held with `quit` set is called held, since R242 does not order the two. -/
def condition (s : State) : Condition :=
  if s.err.isSome then .halted
  else if held s then .held
  else if s.quit then .stopped
  else .running

/-- What the environment and the host may do between steps, or during a hold (R40, R243). -/
inductive EnvEvent where
  /-- `tick` (R198). -/
  | tick
  /-- `key_down(k)` (R199). -/
  | keyDown (k : Fin 16)
  /-- `key_up(k)` (R200). -/
  | keyUp (k : Fin 16)
  /-- `quit` (R237). -/
  | quit
  deriving DecidableEq, Repr

/-- The effect of an environment event. -/
def applyEvent (s : State) : EnvEvent → State
  | .tick => tick s
  | .keyDown k => setKey k.val true s
  | .keyUp k => setKey k.val false s
  | .quit => requestQuit s

/-- The effect of events in order. -/
def applyEvents (s : State) (es : List EnvEvent) : State := es.foldl applyEvent s

/-- How a `run` stands (60_exceptions.md R236, 70_reset_and_hazards.md R275). -/
inductive RunEnd where
  /-- It returned `Stopped`: `quit` was seen at the top of the loop. -/
  | stopped (s : State)
  /-- It returned `Error(err)`. -/
  | error (e : Err) (s : State)
  /-- It goes on: the script is used up. -/
  | unfinished (s : State)
  /-- A step had no next state; no run from a reachable state ends so. -/
  | noNext
  deriving DecidableEq, Repr

/-- Where the loop of `run` stands (60_exceptions.md R236). -/
inductive LoopPoint where
  /-- At the top, before the test of `quit` and of `err`. -/
  | test
  /-- Past the test, before `Step()`, or in it waiting out a hold. -/
  | step
  deriving DecidableEq, Repr

/-- One move of a run: the loop acts, or the environment does (10_state.md R41). -/
inductive RunMove where
  /-- The loop makes its next action: the test, or the step (which a hold keeps waiting). -/
  | loop
  /-- An event falls here, between two actions of the loop. -/
  | event (e : EnvEvent)
  deriving DecidableEq, Repr

/-- `run` (60_exceptions.md R236) against a script of moves, from a point of the loop. `quit` is tested at
the top of the loop only, and not while a hold is waited out (45_keypad_timers.md R194). DESIGN CHOICE,
log entry 15: the spec leaves open on which side of the test an event between two steps falls; here it may
fall on either side, so the state that `run` returns may have events in it after the last step. -/
def runFrom : LoopPoint → List RunMove → State → RunEnd
  | _, [], s => .unfinished s
  | p, .event e :: rest, s => runFrom p rest (applyEvent s e)
  | .test, .loop :: rest, s =>
    if s.quit then .stopped s
    else
      match s.err with
      | some e => .error e s
      | none => runFrom .step rest s
  | .step, .loop :: rest, s =>
    if held s then runFrom .step rest s
    else
      match step s with
      | .next t => runFrom .test rest t
      | .fault _ => .noNext
      | .refused _ => .noNext

/-- `run()` (60_exceptions.md R236), from the top of the loop. -/
def run (script : List RunMove) (s : State) : RunEnd := runFrom .test script s

/-- The transactions that change the state (10_state.md R40). `run` is the loop of R236 over them; the
reads change nothing. -/
inductive Transaction where
  /-- `reset` (R260). -/
  | reset
  /-- `load(ROM)` (R262). -/
  | load (rom : List Byte)
  /-- `step` (R84). -/
  | step
  /-- `quit` (R237). -/
  | quit
  /-- `key_down(k)` (R199). -/
  | keyDown (k : Nat)
  /-- `key_up(k)` (R200). -/
  | keyUp (k : Nat)
  /-- `tick` (R198). -/
  | tick
  deriving DecidableEq, Repr

/-- The effect of a transaction, each atomic (R40, R243). -/
def transact (t : Transaction) (s : State) : Host.Outcome State Fault Refusal :=
  match t with
  | .reset => .next (resetBlock s)
  | .load rom => load rom s
  | .step => step s
  | .quit => .next (requestQuit s)
  | .keyDown k => keyDown k s
  | .keyUp k => keyUp k s
  | .tick => .next (tick s)

end Sys2Proof.Machine
end

