-- ==== Sys2Proof/Safety.lean ====
section
/-! DEFINITION. The terms claims use: the invariant of the machine, the states executions reach,
what it means to change nothing but some named things, and which pixels a sprite covers. -/

namespace Sys2Proof.Safety

open Sys2Proof Sys2Proof.Machine

/-- The invariant: memory is canonical, `sp` is 0 to 16 (10_state.md R26), `pc` is at most 0x10FE
(R24), and every stack entry is an even address of at most 0x1000 (R24, 60_exceptions.md R229). -/
structure MachineInv (s : State) : Prop where
  memWf : Memory.wf s.mem = true
  spLe : s.sp.toNat ≤ 16
  pcLe : s.pc.toNat ≤ 0x10FE
  stackLe : ∀ k < 16, (stackGet k s).toNat ≤ 0x1000
  stackEven : ∀ k < 16, (stackGet k s).toNat % 2 = 0

/-- The states of executions: `reset`, one `load`, then steps, ticks, key events and `quit` in any
order (70_reset_and_hazards.md R264). `d` stands for draws of earlier executions. -/
inductive Reachable : State → Prop where
  | boot (d : Nat) (rom : List Byte) (t : State)
      (h : load rom (State.reset.setDraws d) = .next t) : Reachable t
  | step (s t : State) (hs : Reachable s) (h : Machine.step s = .next t) : Reachable t
  | event (s : State) (e : EnvEvent) (hs : Reachable s) : Reachable (applyEvent s e)

/-- A good end of a run (70_reset_and_hazards.md R275): `run` returned `Stopped` with no error latched. A halted,
unfinished or held run is no good end. -/
def GoodEnd (r : RunEnd) : Prop := ∃ s, r = .stopped s ∧ s.err = none

/-- The address is one the fetch reads: even, at most 0x0FFE (20_memory.md R56). -/
def Fetchable (s : State) : Prop := s.pc.toNat % 2 = 0 ∧ s.pc.toNat + 1 < 4096

/-- The word at `pc`, high byte first (20_memory.md R51). -/
def wordAt (s : State) (w : Word) : Prop :=
  memGet s.mem s.pc.toNat = highByte w ∧ memGet s.mem (s.pc.toNat + 1) = lowByte w

/-- What an instruction may change besides `pc` and `steps`: registers, stack entries and bytes of
memory by predicate, the other fields by yes or no. By default nothing. -/
structure Writes where
  regs : RegIdx → Prop := fun _ => False
  i : Prop := False
  sp : Prop := False
  stack : Nat → Prop := fun _ => False
  dt : Prop := False
  st : Prop := False
  disp : Prop := False
  draws : Prop := False
  mem : Nat → Prop := fun _ => False

/-- `t` is `s` but for `pc`, `steps` and what `w` names. Every byte of memory outside `w.mem` reads as
before. `keys`, `quit` and `err` never change (10_state.md R28, R33, R36, R37). -/
structure Frame (w : Writes) (s t : State) : Prop where
  regs : ∀ r, ¬ w.regs r → readReg r t = readReg r s
  i : ¬ w.i → t.i = s.i
  sp : ¬ w.sp → t.sp = s.sp
  stack : ∀ k < 16, ¬ w.stack k → stackGet k t = stackGet k s
  dt : ¬ w.dt → t.dt = s.dt
  st : ¬ w.st → t.st = s.st
  disp : ¬ w.disp → t.disp = s.disp
  draws : ¬ w.draws → t.draws = s.draws
  mem : ∀ a, ¬ w.mem a → memGet t.mem a = memGet s.mem a
  keys : t.keys = s.keys
  quit : t.quit = s.quit
  err : t.err = s.err

/-- A completed step that falls through: `pc` 2 further (as a 16-bit value), one more step counted. -/
def FallsThrough (s t : State) : Prop := t.pc = s.pc + 2 ∧ t.steps = s.steps + 1

/-- A completed skip: `pc` 4 further if the condition holds, else 2 (41_skips.md R110). -/
def SkipsWhen (c : Prop) (s t : State) : Prop :=
  (c → t.pc = s.pc + 4) ∧ (¬ c → t.pc = s.pc + 2) ∧ t.steps = s.steps + 1

/-- The sprite of `n` rows at `base`, drawn at `(vx, vy)`, has a set bit on the pixel `(cx, cy)`
(44_display.md R172, R173): the pixel of some row and column, bit 7 leftmost. -/
def SpriteCovers (m : Memory) (base vx vy n cx cy : Nat) : Prop :=
  ∃ row < n, ∃ col < 8, (memGet m (base + row)).getLsbD (7 - col) = true ∧
    cx = (vx + col) % 64 ∧ cy = (vy + row) % 32

/-- The cell `(cx, cy)` of a display, `disp[64 * cy + cx]` (10_state.md R32). -/
def pixel (d : Display) (cx cy : Nat) : Bool := d[64 * cy + cx]?.getD false

end Sys2Proof.Safety
end

