-- ==== Sys2Proof/Certificates/Slice0/Obligations.lean ====
section
/-! DEFINITION. The statements for the provers. `exec i s` is the whole step of the instruction `i` from the
state `s` before it, so the `pc` of `s` is the instruction's own address. -/

open Sys2Proof Sys2Proof.Machine Sys2Proof.Safety

/-! ## Encoding -/

/-- Decoding the word of a well-formed instruction gives it back, every operand at every value (R95). -/
def Obligations.DecodeOfEncode : Prop :=
  ∀ i, WellFormed i → decodeWord (encode i) = some i

/-- Every legal word is the encoding of the one instruction it decodes to, which is well-formed. -/
def Obligations.EncodeOfDecode : Prop :=
  ∀ w i, decodeWord w = some i → WellFormed i ∧ encode i = w

/-- A word matches exactly the row of the opcode map (R86) whose pattern names the instruction it decodes
to, and no row if it decodes to none. -/
def Obligations.DecodeAgreesWithOpcodeMap : Prop :=
  ∀ w : Word,
    (∀ i, decodeWord w = some i →
      ∀ r ∈ opcodeRows, (r.matches w = true ↔ r.name = pattern i)) ∧
    (decodeWord w = none → ∀ r ∈ opcodeRows, r.matches w = false)

/-- The illegal words are exactly those of the table of R88, by major nibble. -/
def Obligations.IllegalWordsAreTheListedOnes : Prop :=
  ∀ w : Word, decodeWord w = none ↔
    (fieldA w = 0x0 ∧ fieldNnn w ≠ 0x000 ∧ fieldNnn w ≠ 0x0E0 ∧ fieldNnn w ≠ 0x0EE) ∨
    (fieldA w = 0x5 ∧ fieldD w ≠ 0x0) ∨
    (fieldA w = 0x8 ∧ 8 ≤ (fieldD w).toNat ∧ fieldD w ≠ 0xE) ∨
    (fieldA w = 0x9 ∧ fieldD w ≠ 0x0) ∨
    (fieldA w = 0xE ∧ fieldKk w ≠ 0x9E ∧ fieldKk w ≠ 0xA1) ∨
    (fieldA w = 0xF ∧ ∀ k ∈ ([0x07, 0x0A, 0x15, 0x18, 0x1E, 0x29, 0x33, 0x55, 0x65] : List Byte),
      fieldKk w ≠ k)

/-- Words written out from the encodings of R86 decode to the instructions they stand for. -/
def Obligations.SampleWordsDecode : Prop :=
  decodeWord 0x00E0 = some .cls ∧ decodeWord 0x1ABC = some (.jp 0xABC) ∧
  decodeWord 0x3142 = some (.seImm 1 0x42) ∧ decodeWord 0x8126 = some (.shr 1 2) ∧
  decodeWord 0xA300 = some (.ldI 0x300) ∧ decodeWord 0xD125 = some (.drw 1 2 5) ∧
  decodeWord 0xE19E = some (.skp 1) ∧ decodeWord 0xF265 = some (.ldRegs 2) ∧
  decodeWord 0x8128 = none ∧ decodeWord 0xFFFF = none

/-! ## The step -/

/-- A step runs the decoded instruction: with no error latched, at a `pc` the fetch reads, `step` is `exec`
of what the big-endian word at `pc` decodes to (R84, R55). The advance of `pc` and the count of steps are
part of `exec`. -/
def Obligations.StepRunsDecodedInstruction : Prop :=
  ∀ s w i, s.err = none → Fetchable s → wordAt s w → decodeWord w = some i → step s = exec i s

/-- MODEL'S CHOICE (log entry 8): `withFetchWord` is the model's own helper, which stands for a load from outside.
The word it places is the instruction the very next step runs, also in a state whose `pc` no fetch reads or whose
error is latched, where it moves `pc` to 0x200 and clears the error. -/
def Obligations.PlacedWordRunsNext : Prop :=
  ∀ (s : State) (w : Word) (i : Instr), Memory.wf s.mem = true → decodeWord w = some i →
    step (s.withFetchWord 16 w.toNat) = exec i (s.withFetchWord 16 w.toNat)

/-- A fetch at an odd `pc` latches E6 recording `pc`, whatever its range, and changes nothing else
(R56, R229, R232; the place and the order of the check are the spec's decisions D10, D11). -/
def Obligations.OddPcLatchesMisalignedFetch : Prop :=
  ∀ s, s.err = none → s.pc.toNat % 2 = 1 →
    step s = .next (s.setErr (some (.misalignedFetch s.pc)))

/-- A fetch at an even `pc` of 0x1000 or more latches E2 recording `pc` (R56, R225; precision of errors is the
spec's decision D8). -/
def Obligations.HighPcLatchesMemoryOutOfBounds : Prop :=
  ∀ s, s.err = none → s.pc.toNat % 2 = 0 → 0x1000 ≤ s.pc.toNat →
    step s = .next (s.setErr (some (.memoryOutOfBounds s.pc.toNat)))

/-- An illegal word, once reached by `pc`, latches E1 recording the word (R224; that nothing else changes is the
spec's decision D8). -/
def Obligations.IllegalWordLatchesUnrecognized : Prop :=
  ∀ s w, s.err = none → Fetchable s → wordAt s w → decodeWord w = none →
    step s = .next (s.setErr (some (.unrecognizedInstruction w)))

/-- A halted block: `step` does nothing, the other transactions keep the error, `reset` clears it
(R223, R233; the latch is the spec's decision D7). -/
def Obligations.HaltedUntilReset : Prop :=
  ∀ s e, s.err = some e →
    step s = .next s ∧ (resetBlock s).err = none ∧
    ∀ tr t, tr ≠ .reset → transact tr s = .next t → t.err = some e

/-- The hold: an `Fx0A` at `pc` with no key down. A step changes nothing; any key pressed lifts it; ticks, `quit`
and released keys do not (R194; the hold is the spec's decision D13). -/
def Obligations.HoldUntilKeyDown : Prop :=
  ∀ s x, s.err = none → Fetchable s → wordAt s (encode (.ldVxK x)) →
    (∀ k < 16, keyLevel k s = false) →
    held s = true ∧ step s = .next s ∧ held (tick s) = true ∧ held (requestQuit s) = true ∧
    ∀ k < 16, held (setKey k false s) = true ∧ held (setKey k true s) = false

/-! ## Invariants and whole-machine rules -/

/-- The state after reset meets the invariant. -/
def Obligations.ResetMeetsInv : Prop := MachineInv State.reset

/-- Every step keeps the invariant: memory canonical, `sp` at most 16 (R26), `pc` at most 0x10FE (R24), stack
entries even and at most 0x1000 (R24, R229). -/
def Obligations.StepKeepsInv : Prop :=
  ∀ s t, MachineInv s → step s = .next t → MachineInv t

/-- From every state that meets the invariant a step answers a next state: no fault, no refusal. That an error and
a hold are next states is the model's rendering (log entries 2 and 3; a halted block, log entry 1). -/
def Obligations.StepAlwaysAnswersNext : Prop :=
  ∀ s, MachineInv s → ∃ t, step s = .next t

/-- Every transaction of the interface keeps the invariant (R40): any order, any schedule. -/
def Obligations.TransactionsKeepInv : Prop :=
  ∀ tr s t, MachineInv s → transact tr s = .next t → MachineInv t

/-- Every state of an execution meets the invariant (R24, R26, R264). -/
def Obligations.ReachableStatesMeetInv : Prop :=
  ∀ s, Reachable s → MachineInv s

/-- Errors are precise: a step that latches an error starts with none, and changes nothing but the latch
(R222; precision is the spec's decision D8). The error is never E3 (R228). -/
def Obligations.ErrorsArePrecise : Prop :=
  ∀ s t, step s = .next t → t.err ≠ s.err →
    s.err = none ∧ ∃ e, t = s.setErr (some e) ∧ errCode e ≠ 3

/-- The step counter: one more for a step that completes, which leaves no error; else the same, and then the
block was halted or held and nothing changed, or an error was latched (R35, R84). That a step on a halted or held
block, or one that latches an error, answers a next state is the model's rendering (log entries 1, 2 and 3). -/
def Obligations.StepsCountCompletedSteps : Prop :=
  ∀ s t, step s = .next t →
    (t.steps = s.steps + 1 ∧ s.err = none ∧ t.err = none ∧ held s = false) ∨
    (t.steps = s.steps ∧
      ((t = s ∧ (s.err ≠ none ∨ held s = true)) ∨
       (s.err = none ∧ ∃ e, t = s.setErr (some e))))

/-- No step writes a key flag or the termination flag, and no transaction but a key event or `reset` writes a
key flag, none but `quit` or `reset` the termination flag (R33, R36). -/
def Obligations.KeysAndQuitChangeOnlyFromOutside : Prop :=
  ∀ tr s t, transact tr s = .next t →
    (t.keys ≠ s.keys → tr = .reset ∨ (∃ k, tr = .keyDown k) ∨ ∃ k, tr = .keyUp k) ∧
    (t.quit ≠ s.quit → tr = .reset ∨ tr = .quit)

/-- Which instruction writes which field, `mem` and `disp` compared whole: memory only `Fx33` and `Fx55`, the
display only `00E0` and `Dxyn`, `I` only `Annn`, `Fx1E`, `Fx29`, `sp` and the stack only `2nnn` and `00EE`
(the stack `2nnn` alone), `dt` only `Fx15`, `st` only `Fx18` (R28 and the rules of each field). -/
def Obligations.FieldsHaveTheirWriters : Prop :=
  ∀ i s t, exec i s = .next t →
    (t.mem ≠ s.mem → ∃ x, i = .ldB x ∨ i = .stRegs x) ∧
    (t.disp ≠ s.disp → i = .cls ∨ ∃ x y n, i = .drw x y n) ∧
    (t.i ≠ s.i → (∃ nnn, i = .ldI nnn) ∨ ∃ x, i = .addI x ∨ i = .ldF x) ∧
    (t.sp ≠ s.sp → i = .ret ∨ ∃ nnn, i = .call nnn) ∧
    (t.stack ≠ s.stack → ∃ nnn, i = .call nnn) ∧
    (t.dt ≠ s.dt → ∃ x, i = .ldDtVx x) ∧
    (t.st ≠ s.st → ∃ x, i = .ldStVx x)

/-- The flag register: an instruction that changes `V[15]` is one of the six that write it as a flag, or names 15
as its destination (`Fx65` with `x = 15` too) (R22). -/
def Obligations.FlagHasItsWriters : Prop :=
  ∀ i s t, exec i s = .next t → readReg vf t ≠ readReg vf s →
    (∃ x y, i = .addReg x y ∨ i = .sub x y ∨ i = .shr x y ∨ i = .subn x y ∨ i = .shl x y) ∨
    (∃ x y n, i = .drw x y n) ∨
    (∃ kk, i = .ldImm vf kk ∨ i = .addImm vf kk ∨ i = .rnd vf kk) ∨
    (∃ y, i = .ldReg vf y ∨ i = .orReg vf y ∨ i = .andReg vf y ∨ i = .xorReg vf y) ∨
    i = .ldVxDt vf ∨ i = .ldVxK vf ∨ i = .ldRegs vf

/-! ## Control flow -/

/-- `0000`: the address of the next instruction, one more step, nothing else (R101). -/
def Obligations.NopOnlyAdvances : Prop :=
  ∀ s, ∃ t, exec .nop s = .next t ∧ FallsThrough s t ∧ Frame {} s t

/-- `1nnn`: `pc` is `nnn`, nothing else changes (R103). -/
def Obligations.JpWritesTarget : Prop :=
  ∀ nnn s, ∃ t, exec (.jp nnn) s = .next t ∧ t.pc.toNat = nnn.toNat ∧ t.steps = s.steps + 1 ∧
    Frame {} s t

/-- `Bnnn`: `pc` is `nnn + V[0]` over the integers, not masked (R105; the spec's decision D17). -/
def Obligations.JpV0AddsOffset : Prop :=
  ∀ nnn s, ∃ t, exec (.jpV0 nnn) s = .next t ∧
    t.pc.toNat = nnn.toNat + (readReg v0 s).toNat ∧ t.steps = s.steps + 1 ∧ Frame {} s t

/-- `2nnn` with fewer than 16 calls outstanding: the address after the call is pushed at `stack[sp]`, `sp` is one
more, `pc` is `nnn` (R104). -/
def Obligations.CallPushesReturnAddress : Prop :=
  ∀ nnn s, s.sp.toNat < 16 → ∃ t, exec (.call nnn) s = .next t ∧
    stackGet s.sp.toNat t = s.pc + 2 ∧ t.sp.toNat = s.sp.toNat + 1 ∧ t.pc.toNat = nnn.toNat ∧
    t.steps = s.steps + 1 ∧ Frame { sp := True, stack := fun k => k = s.sp.toNat } s t

/-- `2nnn` with 16 calls outstanding latches E5 and changes nothing else (R104, R227; the spec's decision D9). -/
def Obligations.CallOverflowLatchesError : Prop :=
  ∀ nnn s, s.sp.toNat = 16 → exec (.call nnn) s = .next (s.setErr (some .stackOverflow))

/-- `00EE`: with a call outstanding `sp` is one less and `pc` is the popped entry, which stays in place; with none
E4 is latched and nothing else changes (R102). -/
def Obligations.RetPopsReturnAddress : Prop :=
  ∀ s,
    (0 < s.sp.toNat → s.sp.toNat ≤ 16 → ∃ t, exec .ret s = .next t ∧
      t.sp.toNat + 1 = s.sp.toNat ∧ t.pc = stackGet (s.sp.toNat - 1) s ∧
      t.steps = s.steps + 1 ∧ Frame { sp := True } s t) ∧
    (s.sp.toNat = 0 → exec .ret s = .next (s.setErr (some .stackUnderflow)))

/-- MODEL'S CHOICE (log entry 10): with `sp` above 16, which no run reaches, `2nnn` and `00EE` stop with a fault. -/
def Obligations.IllegalSpStopsCallAndRet : Prop :=
  ∀ nnn s, 16 < s.sp.toNat →
    exec (.call nnn) s = .fault (.illegalStackPointer s.sp) ∧
    exec .ret s = .fault (.illegalStackPointer s.sp)

/-- Call and return round trip: `2nnn` then `00EE` resumes after the call with the same `sp`; only the stack slot
used, `pc` and `steps` are changed (R106). -/
def Obligations.CallThenRetResumes : Prop :=
  ∀ nnn s, s.sp.toNat < 16 → ∃ t u, exec (.call nnn) s = .next t ∧ exec .ret t = .next u ∧
    u.pc = s.pc + 2 ∧ u.steps = s.steps + 2 ∧ Frame { stack := fun k => k = s.sp.toNat } s u

/-- The self-jump: a step at a jump to its own address changes nothing but the step counter (R276). -/
def Obligations.SelfJumpIsFixedPoint : Prop :=
  ∀ s nnn, s.err = none → Fetchable s → wordAt s (encode (.jp nnn)) → nnn.toNat = s.pc.toNat →
    step s = .next (s.setSteps (s.steps + 1))

/-! ## Skips -/

/-- `3xkk` skips when `V[x] = kk`, `4xkk` when not; nothing else changes (R111, R112). -/
def Obligations.SkipsOnImmediate : Prop :=
  ∀ x kk s,
    (∃ t, exec (.seImm x kk) s = .next t ∧ SkipsWhen (readReg x s = kk) s t ∧ Frame {} s t) ∧
    (∃ t, exec (.sneImm x kk) s = .next t ∧ SkipsWhen (readReg x s ≠ kk) s t ∧ Frame {} s t)

/-- `5xy0` skips when `V[x] = V[y]`, `9xy0` when not; nothing else changes (R113, R114). -/
def Obligations.SkipsOnRegisters : Prop :=
  ∀ x y s,
    (∃ t, exec (.seReg x y) s = .next t ∧ SkipsWhen (readReg x s = readReg y s) s t ∧
      Frame {} s t) ∧
    (∃ t, exec (.sneReg x y) s = .next t ∧ SkipsWhen (readReg x s ≠ readReg y s) s t ∧
      Frame {} s t)

/-- `Ex9E` skips when key `V[x]` is down, `ExA1` when it is not; with `V[x]` of 16 or more both latch E7 and change
nothing else (R191, R192; E7 is the spec's decision D12). -/
def Obligations.SkipsOnKey : Prop :=
  ∀ x s,
    ((readReg x s).toNat < 16 →
      (∃ t, exec (.skp x) s = .next t ∧
        SkipsWhen (keyLevel (readReg x s).toNat s = true) s t ∧ Frame {} s t) ∧
      (∃ t, exec (.sknp x) s = .next t ∧
        SkipsWhen (keyLevel (readReg x s).toNat s = false) s t ∧ Frame {} s t)) ∧
    (16 ≤ (readReg x s).toNat →
      exec (.skp x) s = .next (s.setErr (some (.keyIndexOutOfRange (readReg x s)))) ∧
      exec (.sknp x) s = .next (s.setErr (some (.keyIndexOutOfRange (readReg x s)))))

/-! ## Registers -/

/-- `6xkk` and `8xy0` copy a value into `V[x]`, `V[15]` included, and change nothing else (R121, R123). -/
def Obligations.LoadsCopyIntoRegister : Prop :=
  ∀ x y kk s,
    (∃ t, exec (.ldImm x kk) s = .next t ∧ readReg x t = kk ∧ FallsThrough s t ∧
      Frame { regs := fun r => r = x } s t) ∧
    (∃ t, exec (.ldReg x y) s = .next t ∧ readReg x t = readReg y s ∧ FallsThrough s t ∧
      Frame { regs := fun r => r = x } s t)

/-- `7xkk`: the sum modulo 256, no flag (R122). -/
def Obligations.AddImmWrapsWithoutFlag : Prop :=
  ∀ x kk s, ∃ t, exec (.addImm x kk) s = .next t ∧
    (readReg x t).toNat = ((readReg x s).toNat + kk.toNat) % 256 ∧ FallsThrough s t ∧
    Frame { regs := fun r => r = x } s t

/-- `8xy1`, `8xy2`, `8xy3`: bit by bit OR, AND, exclusive OR, no flag (R124, R125, R126). -/
def Obligations.LogicIsBitwiseWithoutFlag : Prop :=
  ∀ x y s,
    (∃ t, exec (.orReg x y) s = .next t ∧ FallsThrough s t ∧ Frame { regs := fun r => r = x } s t ∧
      ∀ k < 8, (readReg x t).getLsbD k = ((readReg x s).getLsbD k || (readReg y s).getLsbD k)) ∧
    (∃ t, exec (.andReg x y) s = .next t ∧ FallsThrough s t ∧ Frame { regs := fun r => r = x } s t ∧
      ∀ k < 8, (readReg x t).getLsbD k = ((readReg x s).getLsbD k && (readReg y s).getLsbD k)) ∧
    (∃ t, exec (.xorReg x y) s = .next t ∧ FallsThrough s t ∧ Frame { regs := fun r => r = x } s t ∧
      ∀ k < 8, (readReg x t).getLsbD k = ((readReg x s).getLsbD k ^^ (readReg y s).getLsbD k))

/-- `8xy4`: `V[x]` is the sum modulo 256 and `V[15]` is 1 exactly when the sum exceeds 255; with `x = 15` the flag
is what remains (R127). -/
def Obligations.AddSetsCarry : Prop :=
  ∀ x y s, ∃ t, exec (.addReg x y) s = .next t ∧
    (x ≠ vf → (readReg x t).toNat = ((readReg x s).toNat + (readReg y s).toNat) % 256) ∧
    (readReg vf t).toNat = (if 255 < (readReg x s).toNat + (readReg y s).toNat then 1 else 0) ∧
    FallsThrough s t ∧ Frame { regs := fun r => r = x ∨ r = vf } s t

/-- `8xy5`: `V[x] - V[y]` modulo 256 and `V[15]` is 0 exactly when `V[x] < V[y]`; with `x = 15` the flag is what
remains (R128). -/
def Obligations.SubSetsNoBorrow : Prop :=
  ∀ x y s, ∃ t, exec (.sub x y) s = .next t ∧
    (x ≠ vf →
      (readReg x t).toNat = ((readReg x s).toNat + 256 - (readReg y s).toNat) % 256) ∧
    (readReg vf t).toNat = (if (readReg x s).toNat < (readReg y s).toNat then 0 else 1) ∧
    FallsThrough s t ∧ Frame { regs := fun r => r = x ∨ r = vf } s t

/-- `8xy7`: `V[y] - V[x]` modulo 256 and `V[15]` is 0 exactly when `V[y] < V[x]`; with `x = 15` the flag is what
remains (R130). -/
def Obligations.SubnSetsNoBorrow : Prop :=
  ∀ x y s, ∃ t, exec (.subn x y) s = .next t ∧
    (x ≠ vf →
      (readReg x t).toNat = ((readReg y s).toNat + 256 - (readReg x s).toNat) % 256) ∧
    (readReg vf t).toNat = (if (readReg y s).toNat < (readReg x s).toNat then 0 else 1) ∧
    FallsThrough s t ∧ Frame { regs := fun r => r = x ∨ r = vf } s t

/-- `8xy6` whatever `y`: `V[x]` halved, `V[15]` the old bit 0; with `x = 15` the result is 0 (R129, R134; the case
`x = 15` is the spec's decision D2). -/
def Obligations.ShrShiftsOutLowBit : Prop :=
  ∀ x y s, ∃ t, exec (.shr x y) s = .next t ∧
    (x ≠ vf → (readReg x t).toNat = (readReg x s).toNat / 2 ∧
      (readReg vf t).toNat = (readReg x s).toNat % 2) ∧
    (x = vf → readReg vf t = 0) ∧
    FallsThrough s t ∧ Frame { regs := fun r => r = x ∨ r = vf } s t

/-- `8xyE` whatever `y`: `V[x]` doubled modulo 256, `V[15]` the old bit 7; with `x = 15` the result is twice the old
bit 7 (R131, R134; the case `x = 15` is the spec's decision D2). -/
def Obligations.ShlShiftsOutHighBit : Prop :=
  ∀ x y s, ∃ t, exec (.shl x y) s = .next t ∧
    (x ≠ vf → (readReg x t).toNat = 2 * (readReg x s).toNat % 256 ∧
      (readReg vf t).toNat = (readReg x s).toNat / 128) ∧
    (x = vf → (readReg vf t).toNat = 2 * ((readReg x s).toNat / 128)) ∧
    FallsThrough s t ∧ Frame { regs := fun r => r = x ∨ r = vf } s t

/-- `Cxkk`: `V[x]` is the next answer of the environment masked by `kk`, so every bit that `kk` has clear is clear;
the answer is used up (R132). The answer is a free value (log entry 4). -/
def Obligations.RndMasksFreshAnswer : Prop :=
  ∀ x kk s, ∃ t, exec (.rnd x kk) s = .next t ∧
    (∀ k < 8, (readReg x t).getLsbD k = ((Config.rnd s.draws).getLsbD k && kk.getLsbD k)) ∧
    t.draws = s.draws + 1 ∧ FallsThrough s t ∧
    Frame { regs := fun r => r = x, draws := True } s t

/-! ## Address register and memory -/

/-- `Annn`: `I` is `nnn`, nothing else changes (R151). -/
def Obligations.LdIWritesAddress : Prop :=
  ∀ nnn s, ∃ t, exec (.ldI nnn) s = .next t ∧ t.i.toNat = nnn.toNat ∧ FallsThrough s t ∧
    Frame { i := True } s t

/-- `Fx1E`: `I + V[x]` modulo 65536, not masked to 12 bits, no flag; `Fx29`: `5 * V[x]`, not masked to a digit
(R152, R153; the spec's decisions D15, D16). -/
def Obligations.IndexArithmetic : Prop :=
  ∀ x s,
    (∃ t, exec (.addI x) s = .next t ∧ t.i.toNat = (s.i.toNat + (readReg x s).toNat) % 65536 ∧
      FallsThrough s t ∧ Frame { i := True } s t) ∧
    (∃ t, exec (.ldF x) s = .next t ∧ t.i.toNat = 5 * (readReg x s).toNat ∧ FallsThrough s t ∧
      Frame { i := True } s t)

/-- `Fx33` inside memory: hundreds, tens, ones at `I`, `I + 1`, `I + 2`; every other byte, and `I`, unchanged. At
`I + 2 >= 4096` E2 is latched with `max(I, 4096)` and nothing is written (R154). -/
def Obligations.BcdStoresDigits : Prop :=
  ∀ x s, Memory.wf s.mem = true →
    (s.i.toNat + 2 < 4096 → ∃ t, exec (.ldB x) s = .next t ∧
      (memGet t.mem s.i.toNat).toNat = (readReg x s).toNat / 100 ∧
      (memGet t.mem (s.i.toNat + 1)).toNat = (readReg x s).toNat / 10 % 10 ∧
      (memGet t.mem (s.i.toNat + 2)).toNat = (readReg x s).toNat % 10 ∧
      FallsThrough s t ∧
      Frame { mem := fun a => baseAddr s ≤ a ∧ a < baseAddr s + 3 } s t) ∧
    (4096 ≤ s.i.toNat + 2 →
      exec (.ldB x) s = .next (s.setErr (some (.memoryOutOfBounds (max s.i.toNat 4096)))))

/-- `Fx55` inside memory: `V[k]` at `I + k` for every `k` up to `x`; every other byte, `I` and the registers
unchanged. At `I + x >= 4096` E2 is latched with `max(I, 4096)` and nothing is written (R155). -/
def Obligations.StoreRegistersToMemory : Prop :=
  ∀ x s, Memory.wf s.mem = true →
    (s.i.toNat + x.toNat < 4096 → ∃ t, exec (.stRegs x) s = .next t ∧
      (∀ r : RegIdx, r.toNat ≤ x.toNat → memGet t.mem (s.i.toNat + r.toNat) = readReg r s) ∧
      FallsThrough s t ∧
      Frame { mem := fun a => baseAddr s ≤ a ∧ a < baseAddr s + regCount x } s t) ∧
    (4096 ≤ s.i.toNat + x.toNat →
      exec (.stRegs x) s = .next (s.setErr (some (.memoryOutOfBounds (max s.i.toNat 4096)))))

/-- `Fx65` inside memory: `V[k]` is the byte at `I + k` for every `k` up to `x`; the registers above, memory and `I`
unchanged. At `I + x >= 4096` E2 is latched with `max(I, 4096)` and no register is written (R156). -/
def Obligations.LoadRegistersFromMemory : Prop :=
  ∀ x s,
    (s.i.toNat + x.toNat < 4096 → ∃ t, exec (.ldRegs x) s = .next t ∧
      (∀ r : RegIdx, r.toNat ≤ x.toNat → readReg r t = memGet s.mem (s.i.toNat + r.toNat)) ∧
      FallsThrough s t ∧ Frame { regs := fun r => r.toNat ≤ x.toNat } s t) ∧
    (4096 ≤ s.i.toNat + x.toNat →
      exec (.ldRegs x) s = .next (s.setErr (some (.memoryOutOfBounds (max s.i.toNat 4096)))))

/-! ## Display -/

/-- `00E0`: every pixel false, `V[15]` and all else unchanged (R171). -/
def Obligations.ClsClearsEveryPixel : Prop :=
  ∀ s, ∃ t, exec .cls s = .next t ∧ (∀ cx < 64, ∀ cy < 32, pixel t.disp cx cy = false) ∧
    FallsThrough s t ∧ Frame { disp := True } s t

/-- `Dxyn` with its rows inside memory: the pixels the wrapped sprite covers are flipped, all others kept; `V[15]` is
1 exactly when a covered pixel was set; the coordinates are those before the step; with `n = 0` nothing is
covered and no bound applies. With a row outside memory E2 is latched with `max(I, 4096)`: no cell is flipped,
`V[15]` is not written (R172, R173, R174, R176). -/
def Obligations.DrawXorsCoveredPixels : Prop :=
  ∀ x y n s, WellFormed (.drw x y n) →
    (0 < n → 4096 < s.i.toNat + n →
      exec (.drw x y n) s = .next (s.setErr (some (.memoryOutOfBounds (max s.i.toNat 4096))))) ∧
    ((0 < n → s.i.toNat + n ≤ 4096) → ∃ t, exec (.drw x y n) s = .next t ∧
      (∀ cx < 64, ∀ cy < 32,
        (SpriteCovers s.mem s.i.toNat (readReg x s).toNat (readReg y s).toNat n cx cy →
          pixel t.disp cx cy = !pixel s.disp cx cy) ∧
        (¬ SpriteCovers s.mem s.i.toNat (readReg x s).toNat (readReg y s).toNat n cx cy →
          pixel t.disp cx cy = pixel s.disp cx cy)) ∧
      (readReg vf t = 1 ∨ readReg vf t = 0) ∧
      (readReg vf t = 1 ↔ ∃ cx < 64, ∃ cy < 32, pixel s.disp cx cy = true ∧
        SpriteCovers s.mem s.i.toNat (readReg x s).toNat (readReg y s).toNat n cx cy) ∧
      FallsThrough s t ∧ Frame { regs := fun r => r = vf, disp := True } s t)

/-- `Dxyn` with a row outside memory latches E2 with `max(I, 4096)`; no cell is flipped and `V[15]` is not written
(R173; precision is the spec's decision D8). -/
def Obligations.DrawOutsideMemoryLatchesError : Prop :=
  ∀ x y n s, 0 < n → 4096 < s.i.toNat + n →
    exec (.drw x y n) s = .next (s.setErr (some (.memoryOutOfBounds (max s.i.toNat 4096))))

/-- Drawing the same sprite twice restores every pixel; the second draw reports a collision exactly when the first
covered some clear pixel (R175). With `x` or `y` 15 the first draw's flag moves the second, so the two draws are at
different coordinates: those forms are left to `DrawXorsCoveredPixels`, which covers each draw. -/
def Obligations.DrawTwiceRestoresDisplay : Prop :=
  ∀ x y n s t u, WellFormed (.drw x y n) → x ≠ vf → y ≠ vf → (0 < n → s.i.toNat + n ≤ 4096) →
    exec (.drw x y n) s = .next t → exec (.drw x y n) t = .next u →
    (∀ cx < 64, ∀ cy < 32, pixel u.disp cx cy = pixel s.disp cx cy) ∧
    (readReg vf u = 1 ↔ ∃ cx < 64, ∃ cy < 32, pixel s.disp cx cy = false ∧
      SpriteCovers s.mem s.i.toNat (readReg x s).toNat (readReg y s).toNat n cx cy)

/-! ## Keypad, timers, host -/

/-- `Fx07`, `Fx15`, `Fx18`: the delay timer to `V[x]`, `V[x]` to the delay timer, `V[x]` to the sound timer; nothing
else changes (R195, R196, R197). -/
def Obligations.TimerTransfers : Prop :=
  ∀ x s,
    (∃ t, exec (.ldVxDt x) s = .next t ∧ readReg x t = s.dt ∧ FallsThrough s t ∧
      Frame { regs := fun r => r = x } s t) ∧
    (∃ t, exec (.ldDtVx x) s = .next t ∧ t.dt = readReg x s ∧ FallsThrough s t ∧
      Frame { dt := True } s t) ∧
    (∃ t, exec (.ldStVx x) s = .next t ∧ t.st = readReg x s ∧ FallsThrough s t ∧
      Frame { st := True } s t)

/-- `Fx0A` with a key down: `V[x]` is the number of a pressed key, the only one if one alone is down
(R193; which of several is the open `KEY_PICK`, the spec's decision D14, log entry 5). -/
def Obligations.KeyWaitReportsPressedKey : Prop :=
  ∀ x s, (∃ k < 16, keyLevel k s = true) → ∃ t, exec (.ldVxK x) s = .next t ∧
    (readReg x t).toNat < 16 ∧ keyLevel (readReg x t).toNat s = true ∧
    (∀ k < 16, (∀ j < 16, keyLevel j s = true → j = k) → (readReg x t).toNat = k) ∧
    FallsThrough s t ∧ Frame { regs := fun r => r = x } s t

/-- Ticks count both timers down, floored at 0: after `k` ticks each is `max(v - k, 0)`, and nothing else has
changed (R198, R202; the one tick for both timers is the spec's decision D21). -/
def Obligations.TicksCountDownToZero : Prop :=
  ∀ (k : Nat) (s : State), ∃ t, t = tick^[k] s ∧
    t.dt.toNat = s.dt.toNat - k ∧ t.st.toNat = s.st.toNat - k ∧
    t.pc = s.pc ∧ t.steps = s.steps ∧ Frame { dt := True, st := True } s t

/-- Key events set and clear one flag and change nothing else; a key of 16 or more is no transaction
(R199, R200; the spec's decision D20). -/
def Obligations.KeyEventsSetOneFlag : Prop :=
  ∀ (k : Nat) (s : State),
    (k < 16 → keyDown k s = .next (setKey k true s) ∧ keyUp k s = .next (setKey k false s) ∧
      ∀ b, (setKey k b s).setKeys s.keys = s ∧
        ∀ j < 16, keyLevel j (setKey k b s) = if j = k then b else keyLevel j s) ∧
    (16 ≤ k → keyDown k s = .refused (.noSuchKey k) ∧ keyUp k s = .refused (.noSuchKey k))

/-- `load` of a ROM that fits: the font at 0x000, the ROM at 0x200 unmodified, every other byte and every other
field unchanged (R262). -/
def Obligations.LoadInstallsFontAndRom : Prop :=
  ∀ rom s, Memory.wf s.mem = true → rom.length ≤ 3584 → ∃ t, load rom s = .next t ∧
    (∀ a (h : a < 80), memGet t.mem a = Config.font[a]) ∧
    (∀ a (h : a < rom.length), memGet t.mem (0x200 + a) = rom[a]) ∧
    (∀ a, 80 ≤ a → a < 0x200 ∨ 0x200 + rom.length ≤ a → memGet t.mem a = memGet s.mem a) ∧
    t.setMem s.mem = s

/-- A ROM of more than 3584 bytes is refused (R263; the spec's decision D23). -/
def Obligations.LongRomIsRefused : Prop :=
  ∀ rom s, 3584 < rom.length → load rom s = .refused (.romTooLong rom.length)

/-- What `reset` leaves in every field (R42, R260; the values marked decided there are the spec's decisions D3, D4).
The model's own counter of random answers goes on (log entry 4). -/
def Obligations.ResetLeavesResetValues : Prop :=
  ∀ s, ∃ t, t = resetBlock s ∧ (∀ a, memGet t.mem a = 0) ∧
    (∀ cx < 64, ∀ cy < 32, pixel t.disp cx cy = false) ∧ t.pc.toNat = 0x200 ∧
    (∀ r, readReg r t = 0) ∧ t.i = 0 ∧ t.sp = 0 ∧ (∀ k < 16, stackGet k t = 0) ∧
    t.dt = 0 ∧ t.st = 0 ∧ (∀ k < 16, keyLevel k t = false) ∧ t.steps = 0 ∧ t.quit = false ∧
    t.err = none ∧ t.draws = s.draws

/-- `run` with `quit` set returns at its first test. A step it has passed the test for completes first: with a
`quit` among the events before or after that step, the next test returns `Stopped`; with none, and an error
latched by the step, it returns `Error`. A hold is waited out, `quit` or not (R236, R237, R194; the hold is the
spec's decision D13). That events may fall on either side of the test is the model's choice (log entry 15). -/
def Obligations.RunStopsAfterAtMostOneStep : Prop :=
  (∀ rest s, s.quit = true → run (.loop :: rest) s = .stopped s) ∧
  (∀ pre post rest s t, s.quit = false → s.err = none → held (applyEvents s pre) = false →
    step (applyEvents s pre) = .next t →
    (EnvEvent.quit ∈ pre ++ post →
      run (.loop :: pre.map .event ++ .loop :: post.map .event ++ .loop :: rest) s =
        .stopped (applyEvents t post)) ∧
    (EnvEvent.quit ∉ pre ++ post → ∀ e, t.err = some e →
      run (.loop :: pre.map .event ++ .loop :: post.map .event ++ .loop :: rest) s =
        .error e (applyEvents t post))) ∧
  (∀ es k s, s.quit = false → s.err = none → held (applyEvents s es) = true →
    run (.loop :: es.map .event ++ List.replicate k .loop) s = .unfinished (applyEvents s es))
end

