-- ==== Sys2Proof/Laws/Decode.lean ====
section
/-! SUPPORT. Fields of assembled words, and bytes of words (30_encoding.md R81, R82, R95). -/

namespace Sys2Proof

@[simp] theorem wordOfBytes_bytes (w : Word) : wordOfBytes (highByte w) (lowByte w) = w := by
  unfold wordOfBytes highByte lowByte
  ext k hk
  rw [BitVec.getElem_append]
  split_ifs with h
  · simp [BitVec.getLsbD_eq_getElem hk]
  · rw [BitVec.getElem_extractLsb', show 8 + (k - 8) = k by omega, BitVec.getLsbD_eq_getElem hk]

@[simp] theorem highByte_wordOfBytes (hi lo : Byte) : highByte (wordOfBytes hi lo) = hi := by
  unfold highByte wordOfBytes
  ext k hk
  rw [BitVec.getElem_extractLsb', BitVec.getLsbD_append]
  simp [hk]

@[simp] theorem lowByte_wordOfBytes (hi lo : Byte) : lowByte (wordOfBytes hi lo) = lo := by
  unfold lowByte wordOfBytes
  ext k hk
  rw [BitVec.getElem_extractLsb', BitVec.getLsbD_append]
  simp [hk]

section
variable (a x y d : Nibble) (kk : Byte) (nnn : Addr12)

@[simp] theorem fieldA_formatA : fieldA (formatA a nnn) = a := by
  unfold fieldA formatA; ext k hk
  rw [BitVec.getElem_extractLsb', BitVec.getLsbD_append]
  simp [hk]

@[simp] theorem fieldNnn_formatA : fieldNnn (formatA a nnn) = nnn := by
  unfold fieldNnn formatA; ext k hk
  rw [BitVec.getElem_extractLsb', BitVec.getLsbD_append]
  simp [hk]

@[simp] theorem fieldA_formatXK : fieldA (formatXK a x kk) = a := by
  unfold fieldA formatXK; ext k hk
  rw [BitVec.getElem_extractLsb', BitVec.getLsbD_append, if_neg (by omega), BitVec.getLsbD_append,
    if_neg (by omega), show 12 + k - 8 - 4 = k by omega, BitVec.getLsbD_eq_getElem]

@[simp] theorem fieldB_formatXK : fieldB (formatXK a x kk) = x := by
  unfold fieldB formatXK; ext k hk
  rw [BitVec.getElem_extractLsb', BitVec.getLsbD_append, if_neg (by omega), BitVec.getLsbD_append]
  simp [hk]

@[simp] theorem fieldKk_formatXK : fieldKk (formatXK a x kk) = kk := by
  unfold fieldKk formatXK; ext k hk
  rw [BitVec.getElem_extractLsb', BitVec.getLsbD_append]
  simp [hk]

@[simp] theorem fieldC_formatXK : fieldC (formatXK a x kk) = kk.extractLsb' 4 4 := by
  unfold fieldC formatXK; ext k hk
  rw [BitVec.getElem_extractLsb', BitVec.getLsbD_append, if_pos (by omega),
    BitVec.getElem_extractLsb']

@[simp] theorem fieldD_formatXK : fieldD (formatXK a x kk) = kk.extractLsb' 0 4 := by
  unfold fieldD formatXK; ext k hk
  rw [BitVec.getElem_extractLsb', BitVec.getLsbD_append, if_pos (by omega),
    BitVec.getElem_extractLsb']

@[simp] theorem fieldA_formatXY : fieldA (formatXY a x y d) = a := by
  unfold fieldA formatXY; ext k hk
  rw [BitVec.getElem_extractLsb', BitVec.getLsbD_append, if_neg (by omega), BitVec.getLsbD_append,
    if_neg (by omega), show 12 + k - 8 - 4 = k by omega, BitVec.getLsbD_eq_getElem]

@[simp] theorem fieldB_formatXY : fieldB (formatXY a x y d) = x := by
  unfold fieldB formatXY; ext k hk
  rw [BitVec.getElem_extractLsb', BitVec.getLsbD_append, if_neg (by omega), BitVec.getLsbD_append]
  simp [hk]

@[simp] theorem fieldC_formatXY : fieldC (formatXY a x y d) = y := by
  unfold fieldC formatXY; ext k hk
  rw [BitVec.getElem_extractLsb', BitVec.getLsbD_append, if_pos (by omega), BitVec.getLsbD_append]
  simp [hk]

@[simp] theorem fieldD_formatXY : fieldD (formatXY a x y d) = d := by
  unfold fieldD formatXY; ext k hk
  rw [BitVec.getElem_extractLsb', BitVec.getLsbD_append, if_pos (by omega), BitVec.getLsbD_append]
  simp [hk]

end

end Sys2Proof
end

