-- ==== Sys2Proof/Laws/Memory.lean ====
section
/-! SUPPORT. Memory: a read after a write, the canonical form, and what writing a run of bytes does. -/

namespace Sys2Proof.Machine

theorem memGet_memCons (a : Nat) (v : Byte) (m : Memory) (b : Nat) (h : memGet m a = 0#8) :
    memGet (memCons a v m) b = if b = a then v else memGet m b := by
  unfold memCons
  by_cases hv : v = 0#8
  · by_cases hb : b = a
    · subst hb; simp [hv, h]
    · simp [hv, hb]
  · by_cases hb : b = a
    · subst hb; simp [hv, memGet]
    · have : ¬ a = b := fun e => hb e.symm
      simp [hv, hb, this, memGet]

/-- An address below every listed one reads as unlisted. -/
theorem memGet_of_all_lt (m : Memory) (a : Nat) (h : m.all (fun c => decide (a < c.1)) = true) :
    memGet m a = 0#8 := by
  induction m with
  | nil => rfl
  | cons c rest ih =>
    obtain ⟨k, b⟩ := c
    simp only [List.all_cons, Bool.and_eq_true, decide_eq_true_eq] at h
    have : ¬ k = a := by omega
    simp [memGet, this, ih h.2]

theorem all_lt_mono (m : Memory) {a b : Nat} (hab : a ≤ b)
    (h : m.all (fun c => decide (b < c.1)) = true) : m.all (fun c => decide (a < c.1)) = true := by
  simp only [List.all_eq_true, decide_eq_true_eq] at *
  intro c hc
  exact Nat.lt_of_le_of_lt hab (h c hc)

theorem memory_wf_cons (a : Nat) (b : Byte) (rest : Memory) :
    Memory.wf ((a, b) :: rest) = true ↔
      a < Config.memSize ∧ b ≠ 0#8 ∧ rest.all (fun c => decide (a < c.1)) = true ∧
        Memory.wf rest = true := by
  simp only [Memory.wf, Bool.and_eq_true, decide_eq_true_eq, and_assoc]

/-- A read after a write, in canonical memory (R52, R53): the byte written, elsewhere the old one. -/
theorem memGet_memSet (m : Memory) (hm : Memory.wf m = true) (a : Nat) (v : Byte) (b : Nat) :
    memGet (memSet m a v) b = if b = a then v else memGet m b := by
  induction m with
  | nil => exact memGet_memCons a v [] b rfl
  | cons c rest ih =>
    obtain ⟨k, w⟩ := c
    rw [memory_wf_cons] at hm
    obtain ⟨-, -, hall, hrest⟩ := hm
    by_cases h1 : a < k
    · have h0 : memGet ((k, w) :: rest) a = 0#8 := by
        apply memGet_of_all_lt
        simp only [List.all_cons, Bool.and_eq_true, decide_eq_true_eq]
        exact ⟨h1, all_lt_mono rest (Nat.le_of_lt h1) hall⟩
      simpa [memSet, h1] using memGet_memCons a v ((k, w) :: rest) b h0
    · by_cases h2 : a = k
      · subst h2
        have h0 := memGet_of_all_lt rest a hall
        simp only [memSet, lt_irrefl, if_false, if_true, memGet_memCons a v rest b h0, memGet]
        by_cases hb : b = a
        · simp [hb]
        · have : ¬ a = b := fun e => hb e.symm
          simp [hb, this]
      · simp only [memSet, h1, h2, if_false, memGet, ih hrest]
        by_cases hk : k = b
        · have : ¬ b = a := by omega
          simp [hk, this]
        · simp [hk]

theorem all_memSet (m : Memory) (k a : Nat) (v : Byte) (hk : k < a)
    (h : m.all (fun c => decide (k < c.1)) = true) :
    (memSet m a v).all (fun c => decide (k < c.1)) = true := by
  induction m with
  | nil => by_cases hv : v = 0#8 <;> simp [memSet, memCons, hv, hk]
  | cons c rest ih =>
    obtain ⟨j, w⟩ := c
    simp only [List.all_cons, Bool.and_eq_true, decide_eq_true_eq] at h
    have ih := ih h.2
    unfold memSet memCons
    split_ifs <;> simp only [List.all_cons, h, hk, ih, decide_true, Bool.and_self]

/-- A write inside the address space keeps the canonical form. -/
theorem memory_wf_memSet (m : Memory) (hm : Memory.wf m = true) (a : Nat) (v : Byte)
    (ha : a < Config.memSize) : Memory.wf (memSet m a v) = true := by
  induction m with
  | nil =>
    by_cases hv : v = 0#8
    · simp [memSet, memCons, hv, Memory.wf]
    · simp [memSet, memCons, hv, Memory.wf, ha]
  | cons c rest ih =>
    obtain ⟨k, w⟩ := c
    have hm' := hm
    rw [memory_wf_cons] at hm'
    obtain ⟨hk, hw, hall, hrest⟩ := hm'
    by_cases h1 : a < k
    · have hall' : ((k, w) :: rest).all (fun c => decide (a < c.1)) = true := by
        simp only [List.all_cons, Bool.and_eq_true, decide_eq_true_eq]
        exact ⟨h1, all_lt_mono rest (Nat.le_of_lt h1) hall⟩
      by_cases hv : v = 0#8
      · simpa [memSet, h1, memCons, hv] using hm
      · simp only [memSet, h1, if_true, memCons, hv, if_false]
        exact (memory_wf_cons a v _).2 ⟨ha, hv, hall', hm⟩
    · by_cases h2 : a = k
      · subst h2
        by_cases hv : v = 0#8
        · simpa [memSet, memCons, hv] using hrest
        · simp only [memSet, lt_irrefl, if_false, if_true, memCons, hv]
          exact (memory_wf_cons a v rest).2 ⟨ha, hv, hall, hrest⟩
      · simp only [memSet, h1, h2, if_false]
        exact (memory_wf_cons k w _).2
          ⟨hk, hw, all_memSet rest k a v (by omega) hall, ih hrest⟩

/-- A run of bytes written inside the address space keeps the canonical form. -/
theorem memory_wf_storeBytes (bs : List Byte) (m : Memory) (hm : Memory.wf m = true) (a : Nat)
    (ha : a + bs.length ≤ Config.memSize) : Memory.wf (storeBytes m a bs) = true := by
  induction bs generalizing m a with
  | nil => exact hm
  | cons b bs ih =>
    simp only [List.length_cons] at ha
    exact ih (memSet m a b) (memory_wf_memSet m hm a b (by omega)) (a + 1) (by omega)

/-- What a run of bytes written inside the address space leaves at each address: byte `k` of the run
at `a + k`, elsewhere the old byte. -/
theorem memGet_storeBytes (bs : List Byte) (m : Memory) (hm : Memory.wf m = true) (a : Nat)
    (ha : a + bs.length ≤ Config.memSize) (c : Nat) :
    memGet (storeBytes m a bs) c =
      if a ≤ c ∧ c < a + bs.length then bs[c - a]?.getD 0 else memGet m c := by
  induction bs generalizing m a with
  | nil =>
    have : ¬ (a ≤ c ∧ c < a) := by omega
    simp [storeBytes, this]
  | cons b bs ih =>
    simp only [List.length_cons] at ha ⊢
    rw [storeBytes, ih _ (memory_wf_memSet m hm a b (by omega)) (a + 1) (by omega),
      memGet_memSet m hm]
    rcases Nat.lt_trichotomy c a with h | h | h
    · have h1 : ¬ (a + 1 ≤ c ∧ c < a + 1 + bs.length) := by omega
      have h2 : ¬ (a ≤ c ∧ c < a + (bs.length + 1)) := by omega
      have h3 : ¬ c = a := by omega
      rw [if_neg h1, if_neg h2, if_neg h3]
    · subst h
      simp
    · obtain ⟨d, rfl⟩ : ∃ d, c = a + 1 + d := ⟨c - a - 1, by omega⟩
      have h3 : ¬ a + 1 + d = a := by omega
      have h4 : a + 1 + d - a = d + 1 := by omega
      have h5 : a + 1 + d - (a + 1) = d := by omega
      have h6 : (a + 1 ≤ a + 1 + d ∧ a + 1 + d < a + 1 + bs.length) ↔
          (a ≤ a + 1 + d ∧ a + 1 + d < a + (bs.length + 1)) := by omega
      rw [h4, h5]
      simp only [h6, h3, if_false, List.getElem?_cons_succ]

theorem memory_wf_reset : Memory.wf State.reset.mem = true := rfl

end Sys2Proof.Machine
end

