-- ==== Sys2Proof/Laws/State.lean ====
section
/-! SUPPORT. One lemma per field per update: what each update of Ops.lean leaves in each field. -/

namespace Sys2Proof.Machine

section
variable (s : State) (m : Memory)
@[simp] theorem setMem_mem : (s.setMem m).mem = m := rfl
@[simp] theorem setMem_v : (s.setMem m).v = s.v := rfl
@[simp] theorem setMem_i : (s.setMem m).i = s.i := rfl
@[simp] theorem setMem_pc : (s.setMem m).pc = s.pc := rfl
@[simp] theorem setMem_sp : (s.setMem m).sp = s.sp := rfl
@[simp] theorem setMem_stack : (s.setMem m).stack = s.stack := rfl
@[simp] theorem setMem_dt : (s.setMem m).dt = s.dt := rfl
@[simp] theorem setMem_st : (s.setMem m).st = s.st := rfl
@[simp] theorem setMem_keys : (s.setMem m).keys = s.keys := rfl
@[simp] theorem setMem_disp : (s.setMem m).disp = s.disp := rfl
@[simp] theorem setMem_steps : (s.setMem m).steps = s.steps := rfl
@[simp] theorem setMem_quit : (s.setMem m).quit = s.quit := rfl
@[simp] theorem setMem_err : (s.setMem m).err = s.err := rfl
@[simp] theorem setMem_draws : (s.setMem m).draws = s.draws := rfl
end

section
variable (s : State) (w : Vector Byte Config.nReg)
@[simp] theorem setV_mem : (s.setV w).mem = s.mem := rfl
@[simp] theorem setV_v : (s.setV w).v = w := rfl
@[simp] theorem setV_i : (s.setV w).i = s.i := rfl
@[simp] theorem setV_pc : (s.setV w).pc = s.pc := rfl
@[simp] theorem setV_sp : (s.setV w).sp = s.sp := rfl
@[simp] theorem setV_stack : (s.setV w).stack = s.stack := rfl
@[simp] theorem setV_dt : (s.setV w).dt = s.dt := rfl
@[simp] theorem setV_st : (s.setV w).st = s.st := rfl
@[simp] theorem setV_keys : (s.setV w).keys = s.keys := rfl
@[simp] theorem setV_disp : (s.setV w).disp = s.disp := rfl
@[simp] theorem setV_steps : (s.setV w).steps = s.steps := rfl
@[simp] theorem setV_quit : (s.setV w).quit = s.quit := rfl
@[simp] theorem setV_err : (s.setV w).err = s.err := rfl
@[simp] theorem setV_draws : (s.setV w).draws = s.draws := rfl
end

section
variable (s : State) (a : Word)
@[simp] theorem setI_mem : (s.setI a).mem = s.mem := rfl
@[simp] theorem setI_v : (s.setI a).v = s.v := rfl
@[simp] theorem setI_i : (s.setI a).i = a := rfl
@[simp] theorem setI_pc : (s.setI a).pc = s.pc := rfl
@[simp] theorem setI_sp : (s.setI a).sp = s.sp := rfl
@[simp] theorem setI_stack : (s.setI a).stack = s.stack := rfl
@[simp] theorem setI_dt : (s.setI a).dt = s.dt := rfl
@[simp] theorem setI_st : (s.setI a).st = s.st := rfl
@[simp] theorem setI_keys : (s.setI a).keys = s.keys := rfl
@[simp] theorem setI_disp : (s.setI a).disp = s.disp := rfl
@[simp] theorem setI_steps : (s.setI a).steps = s.steps := rfl
@[simp] theorem setI_quit : (s.setI a).quit = s.quit := rfl
@[simp] theorem setI_err : (s.setI a).err = s.err := rfl
@[simp] theorem setI_draws : (s.setI a).draws = s.draws := rfl
end

section
variable (s : State) (a : Word)
@[simp] theorem setPc_mem : (s.setPc a).mem = s.mem := rfl
@[simp] theorem setPc_v : (s.setPc a).v = s.v := rfl
@[simp] theorem setPc_i : (s.setPc a).i = s.i := rfl
@[simp] theorem setPc_pc : (s.setPc a).pc = a := rfl
@[simp] theorem setPc_sp : (s.setPc a).sp = s.sp := rfl
@[simp] theorem setPc_stack : (s.setPc a).stack = s.stack := rfl
@[simp] theorem setPc_dt : (s.setPc a).dt = s.dt := rfl
@[simp] theorem setPc_st : (s.setPc a).st = s.st := rfl
@[simp] theorem setPc_keys : (s.setPc a).keys = s.keys := rfl
@[simp] theorem setPc_disp : (s.setPc a).disp = s.disp := rfl
@[simp] theorem setPc_steps : (s.setPc a).steps = s.steps := rfl
@[simp] theorem setPc_quit : (s.setPc a).quit = s.quit := rfl
@[simp] theorem setPc_err : (s.setPc a).err = s.err := rfl
@[simp] theorem setPc_draws : (s.setPc a).draws = s.draws := rfl
end

section
variable (s : State) (b : Byte)
@[simp] theorem setSp_mem : (s.setSp b).mem = s.mem := rfl
@[simp] theorem setSp_v : (s.setSp b).v = s.v := rfl
@[simp] theorem setSp_i : (s.setSp b).i = s.i := rfl
@[simp] theorem setSp_pc : (s.setSp b).pc = s.pc := rfl
@[simp] theorem setSp_sp : (s.setSp b).sp = b := rfl
@[simp] theorem setSp_stack : (s.setSp b).stack = s.stack := rfl
@[simp] theorem setSp_dt : (s.setSp b).dt = s.dt := rfl
@[simp] theorem setSp_st : (s.setSp b).st = s.st := rfl
@[simp] theorem setSp_keys : (s.setSp b).keys = s.keys := rfl
@[simp] theorem setSp_disp : (s.setSp b).disp = s.disp := rfl
@[simp] theorem setSp_steps : (s.setSp b).steps = s.steps := rfl
@[simp] theorem setSp_quit : (s.setSp b).quit = s.quit := rfl
@[simp] theorem setSp_err : (s.setSp b).err = s.err := rfl
@[simp] theorem setSp_draws : (s.setSp b).draws = s.draws := rfl
end

section
variable (s : State) (k : Vector Word Config.stackDepth)
@[simp] theorem setStack_mem : (s.setStack k).mem = s.mem := rfl
@[simp] theorem setStack_v : (s.setStack k).v = s.v := rfl
@[simp] theorem setStack_i : (s.setStack k).i = s.i := rfl
@[simp] theorem setStack_pc : (s.setStack k).pc = s.pc := rfl
@[simp] theorem setStack_sp : (s.setStack k).sp = s.sp := rfl
@[simp] theorem setStack_stack : (s.setStack k).stack = k := rfl
@[simp] theorem setStack_dt : (s.setStack k).dt = s.dt := rfl
@[simp] theorem setStack_st : (s.setStack k).st = s.st := rfl
@[simp] theorem setStack_keys : (s.setStack k).keys = s.keys := rfl
@[simp] theorem setStack_disp : (s.setStack k).disp = s.disp := rfl
@[simp] theorem setStack_steps : (s.setStack k).steps = s.steps := rfl
@[simp] theorem setStack_quit : (s.setStack k).quit = s.quit := rfl
@[simp] theorem setStack_err : (s.setStack k).err = s.err := rfl
@[simp] theorem setStack_draws : (s.setStack k).draws = s.draws := rfl
end

section
variable (s : State) (b : Byte)
@[simp] theorem setDt_mem : (s.setDt b).mem = s.mem := rfl
@[simp] theorem setDt_v : (s.setDt b).v = s.v := rfl
@[simp] theorem setDt_i : (s.setDt b).i = s.i := rfl
@[simp] theorem setDt_pc : (s.setDt b).pc = s.pc := rfl
@[simp] theorem setDt_sp : (s.setDt b).sp = s.sp := rfl
@[simp] theorem setDt_stack : (s.setDt b).stack = s.stack := rfl
@[simp] theorem setDt_dt : (s.setDt b).dt = b := rfl
@[simp] theorem setDt_st : (s.setDt b).st = s.st := rfl
@[simp] theorem setDt_keys : (s.setDt b).keys = s.keys := rfl
@[simp] theorem setDt_disp : (s.setDt b).disp = s.disp := rfl
@[simp] theorem setDt_steps : (s.setDt b).steps = s.steps := rfl
@[simp] theorem setDt_quit : (s.setDt b).quit = s.quit := rfl
@[simp] theorem setDt_err : (s.setDt b).err = s.err := rfl
@[simp] theorem setDt_draws : (s.setDt b).draws = s.draws := rfl
end

section
variable (s : State) (b : Byte)
@[simp] theorem setSt_mem : (s.setSt b).mem = s.mem := rfl
@[simp] theorem setSt_v : (s.setSt b).v = s.v := rfl
@[simp] theorem setSt_i : (s.setSt b).i = s.i := rfl
@[simp] theorem setSt_pc : (s.setSt b).pc = s.pc := rfl
@[simp] theorem setSt_sp : (s.setSt b).sp = s.sp := rfl
@[simp] theorem setSt_stack : (s.setSt b).stack = s.stack := rfl
@[simp] theorem setSt_dt : (s.setSt b).dt = s.dt := rfl
@[simp] theorem setSt_st : (s.setSt b).st = b := rfl
@[simp] theorem setSt_keys : (s.setSt b).keys = s.keys := rfl
@[simp] theorem setSt_disp : (s.setSt b).disp = s.disp := rfl
@[simp] theorem setSt_steps : (s.setSt b).steps = s.steps := rfl
@[simp] theorem setSt_quit : (s.setSt b).quit = s.quit := rfl
@[simp] theorem setSt_err : (s.setSt b).err = s.err := rfl
@[simp] theorem setSt_draws : (s.setSt b).draws = s.draws := rfl
end

section
variable (s : State) (k : Vector Bool Config.nKeys)
@[simp] theorem setKeys_mem : (s.setKeys k).mem = s.mem := rfl
@[simp] theorem setKeys_v : (s.setKeys k).v = s.v := rfl
@[simp] theorem setKeys_i : (s.setKeys k).i = s.i := rfl
@[simp] theorem setKeys_pc : (s.setKeys k).pc = s.pc := rfl
@[simp] theorem setKeys_sp : (s.setKeys k).sp = s.sp := rfl
@[simp] theorem setKeys_stack : (s.setKeys k).stack = s.stack := rfl
@[simp] theorem setKeys_dt : (s.setKeys k).dt = s.dt := rfl
@[simp] theorem setKeys_st : (s.setKeys k).st = s.st := rfl
@[simp] theorem setKeys_keys : (s.setKeys k).keys = k := rfl
@[simp] theorem setKeys_disp : (s.setKeys k).disp = s.disp := rfl
@[simp] theorem setKeys_steps : (s.setKeys k).steps = s.steps := rfl
@[simp] theorem setKeys_quit : (s.setKeys k).quit = s.quit := rfl
@[simp] theorem setKeys_err : (s.setKeys k).err = s.err := rfl
@[simp] theorem setKeys_draws : (s.setKeys k).draws = s.draws := rfl
end

section
variable (s : State) (d : Display)
@[simp] theorem setDisp_mem : (s.setDisp d).mem = s.mem := rfl
@[simp] theorem setDisp_v : (s.setDisp d).v = s.v := rfl
@[simp] theorem setDisp_i : (s.setDisp d).i = s.i := rfl
@[simp] theorem setDisp_pc : (s.setDisp d).pc = s.pc := rfl
@[simp] theorem setDisp_sp : (s.setDisp d).sp = s.sp := rfl
@[simp] theorem setDisp_stack : (s.setDisp d).stack = s.stack := rfl
@[simp] theorem setDisp_dt : (s.setDisp d).dt = s.dt := rfl
@[simp] theorem setDisp_st : (s.setDisp d).st = s.st := rfl
@[simp] theorem setDisp_keys : (s.setDisp d).keys = s.keys := rfl
@[simp] theorem setDisp_disp : (s.setDisp d).disp = d := rfl
@[simp] theorem setDisp_steps : (s.setDisp d).steps = s.steps := rfl
@[simp] theorem setDisp_quit : (s.setDisp d).quit = s.quit := rfl
@[simp] theorem setDisp_err : (s.setDisp d).err = s.err := rfl
@[simp] theorem setDisp_draws : (s.setDisp d).draws = s.draws := rfl
end

section
variable (s : State) (n : Nat)
@[simp] theorem setSteps_mem : (s.setSteps n).mem = s.mem := rfl
@[simp] theorem setSteps_v : (s.setSteps n).v = s.v := rfl
@[simp] theorem setSteps_i : (s.setSteps n).i = s.i := rfl
@[simp] theorem setSteps_pc : (s.setSteps n).pc = s.pc := rfl
@[simp] theorem setSteps_sp : (s.setSteps n).sp = s.sp := rfl
@[simp] theorem setSteps_stack : (s.setSteps n).stack = s.stack := rfl
@[simp] theorem setSteps_dt : (s.setSteps n).dt = s.dt := rfl
@[simp] theorem setSteps_st : (s.setSteps n).st = s.st := rfl
@[simp] theorem setSteps_keys : (s.setSteps n).keys = s.keys := rfl
@[simp] theorem setSteps_disp : (s.setSteps n).disp = s.disp := rfl
@[simp] theorem setSteps_steps : (s.setSteps n).steps = n := rfl
@[simp] theorem setSteps_quit : (s.setSteps n).quit = s.quit := rfl
@[simp] theorem setSteps_err : (s.setSteps n).err = s.err := rfl
@[simp] theorem setSteps_draws : (s.setSteps n).draws = s.draws := rfl
end

section
variable (s : State) (q : Bool)
@[simp] theorem setQuit_mem : (s.setQuit q).mem = s.mem := rfl
@[simp] theorem setQuit_v : (s.setQuit q).v = s.v := rfl
@[simp] theorem setQuit_i : (s.setQuit q).i = s.i := rfl
@[simp] theorem setQuit_pc : (s.setQuit q).pc = s.pc := rfl
@[simp] theorem setQuit_sp : (s.setQuit q).sp = s.sp := rfl
@[simp] theorem setQuit_stack : (s.setQuit q).stack = s.stack := rfl
@[simp] theorem setQuit_dt : (s.setQuit q).dt = s.dt := rfl
@[simp] theorem setQuit_st : (s.setQuit q).st = s.st := rfl
@[simp] theorem setQuit_keys : (s.setQuit q).keys = s.keys := rfl
@[simp] theorem setQuit_disp : (s.setQuit q).disp = s.disp := rfl
@[simp] theorem setQuit_steps : (s.setQuit q).steps = s.steps := rfl
@[simp] theorem setQuit_quit : (s.setQuit q).quit = q := rfl
@[simp] theorem setQuit_err : (s.setQuit q).err = s.err := rfl
@[simp] theorem setQuit_draws : (s.setQuit q).draws = s.draws := rfl
end

section
variable (s : State) (e : Option Err)
@[simp] theorem setErr_mem : (s.setErr e).mem = s.mem := rfl
@[simp] theorem setErr_v : (s.setErr e).v = s.v := rfl
@[simp] theorem setErr_i : (s.setErr e).i = s.i := rfl
@[simp] theorem setErr_pc : (s.setErr e).pc = s.pc := rfl
@[simp] theorem setErr_sp : (s.setErr e).sp = s.sp := rfl
@[simp] theorem setErr_stack : (s.setErr e).stack = s.stack := rfl
@[simp] theorem setErr_dt : (s.setErr e).dt = s.dt := rfl
@[simp] theorem setErr_st : (s.setErr e).st = s.st := rfl
@[simp] theorem setErr_keys : (s.setErr e).keys = s.keys := rfl
@[simp] theorem setErr_disp : (s.setErr e).disp = s.disp := rfl
@[simp] theorem setErr_steps : (s.setErr e).steps = s.steps := rfl
@[simp] theorem setErr_quit : (s.setErr e).quit = s.quit := rfl
@[simp] theorem setErr_err : (s.setErr e).err = e := rfl
@[simp] theorem setErr_draws : (s.setErr e).draws = s.draws := rfl
end

section
variable (s : State) (n : Nat)
@[simp] theorem setDraws_mem : (s.setDraws n).mem = s.mem := rfl
@[simp] theorem setDraws_v : (s.setDraws n).v = s.v := rfl
@[simp] theorem setDraws_i : (s.setDraws n).i = s.i := rfl
@[simp] theorem setDraws_pc : (s.setDraws n).pc = s.pc := rfl
@[simp] theorem setDraws_sp : (s.setDraws n).sp = s.sp := rfl
@[simp] theorem setDraws_stack : (s.setDraws n).stack = s.stack := rfl
@[simp] theorem setDraws_dt : (s.setDraws n).dt = s.dt := rfl
@[simp] theorem setDraws_st : (s.setDraws n).st = s.st := rfl
@[simp] theorem setDraws_keys : (s.setDraws n).keys = s.keys := rfl
@[simp] theorem setDraws_disp : (s.setDraws n).disp = s.disp := rfl
@[simp] theorem setDraws_steps : (s.setDraws n).steps = s.steps := rfl
@[simp] theorem setDraws_quit : (s.setDraws n).quit = s.quit := rfl
@[simp] theorem setDraws_err : (s.setDraws n).err = s.err := rfl
@[simp] theorem setDraws_draws : (s.setDraws n).draws = n := rfl
end

end Sys2Proof.Machine
end

