-- ==== Sys2Proof/Laws/Ops.lean ====
section
/-! SUPPORT. What the shared operations of Ops.lean, Operands.lean, Flags.lean and KeypadTimers.lean do:
registers, the stack, the keys, `advance`, the end of a step, `raise`, the range check. -/

namespace Sys2Proof.Machine

section
variable (s : State)

/-! Reads of one field see through the updates of the others. -/

@[simp] theorem readReg_setMem (x : RegIdx) (a : Memory) : readReg x (s.setMem a) = readReg x s := rfl
@[simp] theorem readReg_setI (x : RegIdx) (a : Word) : readReg x (s.setI a) = readReg x s := rfl
@[simp] theorem readReg_setPc (x : RegIdx) (a : Word) : readReg x (s.setPc a) = readReg x s := rfl
@[simp] theorem readReg_setSp (x : RegIdx) (a : Byte) : readReg x (s.setSp a) = readReg x s := rfl
@[simp] theorem readReg_setStack (x : RegIdx) (a : Vector Word Config.stackDepth) : readReg x (s.setStack a) = readReg x s := rfl
@[simp] theorem readReg_setDt (x : RegIdx) (a : Byte) : readReg x (s.setDt a) = readReg x s := rfl
@[simp] theorem readReg_setSt (x : RegIdx) (a : Byte) : readReg x (s.setSt a) = readReg x s := rfl
@[simp] theorem readReg_setKeys (x : RegIdx) (a : Vector Bool Config.nKeys) : readReg x (s.setKeys a) = readReg x s := rfl
@[simp] theorem readReg_setDisp (x : RegIdx) (a : Display) : readReg x (s.setDisp a) = readReg x s := rfl
@[simp] theorem readReg_setSteps (x : RegIdx) (a : Nat) : readReg x (s.setSteps a) = readReg x s := rfl
@[simp] theorem readReg_setQuit (x : RegIdx) (a : Bool) : readReg x (s.setQuit a) = readReg x s := rfl
@[simp] theorem readReg_setErr (x : RegIdx) (a : Option Err) : readReg x (s.setErr a) = readReg x s := rfl
@[simp] theorem readReg_setDraws (x : RegIdx) (a : Nat) : readReg x (s.setDraws a) = readReg x s := rfl
@[simp] theorem stackGet_setMem (k : Nat) (a : Memory) : stackGet k (s.setMem a) = stackGet k s := rfl
@[simp] theorem stackGet_setV (k : Nat) (a : Vector Byte Config.nReg) : stackGet k (s.setV a) = stackGet k s := rfl
@[simp] theorem stackGet_setI (k : Nat) (a : Word) : stackGet k (s.setI a) = stackGet k s := rfl
@[simp] theorem stackGet_setPc (k : Nat) (a : Word) : stackGet k (s.setPc a) = stackGet k s := rfl
@[simp] theorem stackGet_setSp (k : Nat) (a : Byte) : stackGet k (s.setSp a) = stackGet k s := rfl
@[simp] theorem stackGet_setDt (k : Nat) (a : Byte) : stackGet k (s.setDt a) = stackGet k s := rfl
@[simp] theorem stackGet_setSt (k : Nat) (a : Byte) : stackGet k (s.setSt a) = stackGet k s := rfl
@[simp] theorem stackGet_setKeys (k : Nat) (a : Vector Bool Config.nKeys) : stackGet k (s.setKeys a) = stackGet k s := rfl
@[simp] theorem stackGet_setDisp (k : Nat) (a : Display) : stackGet k (s.setDisp a) = stackGet k s := rfl
@[simp] theorem stackGet_setSteps (k : Nat) (a : Nat) : stackGet k (s.setSteps a) = stackGet k s := rfl
@[simp] theorem stackGet_setQuit (k : Nat) (a : Bool) : stackGet k (s.setQuit a) = stackGet k s := rfl
@[simp] theorem stackGet_setErr (k : Nat) (a : Option Err) : stackGet k (s.setErr a) = stackGet k s := rfl
@[simp] theorem stackGet_setDraws (k : Nat) (a : Nat) : stackGet k (s.setDraws a) = stackGet k s := rfl
@[simp] theorem keyLevel_setMem (k : Nat) (a : Memory) : keyLevel k (s.setMem a) = keyLevel k s := rfl
@[simp] theorem keyLevel_setV (k : Nat) (a : Vector Byte Config.nReg) : keyLevel k (s.setV a) = keyLevel k s := rfl
@[simp] theorem keyLevel_setI (k : Nat) (a : Word) : keyLevel k (s.setI a) = keyLevel k s := rfl
@[simp] theorem keyLevel_setPc (k : Nat) (a : Word) : keyLevel k (s.setPc a) = keyLevel k s := rfl
@[simp] theorem keyLevel_setSp (k : Nat) (a : Byte) : keyLevel k (s.setSp a) = keyLevel k s := rfl
@[simp] theorem keyLevel_setStack (k : Nat) (a : Vector Word Config.stackDepth) : keyLevel k (s.setStack a) = keyLevel k s := rfl
@[simp] theorem keyLevel_setDt (k : Nat) (a : Byte) : keyLevel k (s.setDt a) = keyLevel k s := rfl
@[simp] theorem keyLevel_setSt (k : Nat) (a : Byte) : keyLevel k (s.setSt a) = keyLevel k s := rfl
@[simp] theorem keyLevel_setDisp (k : Nat) (a : Display) : keyLevel k (s.setDisp a) = keyLevel k s := rfl
@[simp] theorem keyLevel_setSteps (k : Nat) (a : Nat) : keyLevel k (s.setSteps a) = keyLevel k s := rfl
@[simp] theorem keyLevel_setQuit (k : Nat) (a : Bool) : keyLevel k (s.setQuit a) = keyLevel k s := rfl
@[simp] theorem keyLevel_setErr (k : Nat) (a : Option Err) : keyLevel k (s.setErr a) = keyLevel k s := rfl
@[simp] theorem keyLevel_setDraws (k : Nat) (a : Nat) : keyLevel k (s.setDraws a) = keyLevel k s := rfl
@[simp] theorem writeReg_mem (x : RegIdx) (b : Byte) : (writeReg x b s).mem = s.mem := rfl
@[simp] theorem writeReg_i (x : RegIdx) (b : Byte) : (writeReg x b s).i = s.i := rfl
@[simp] theorem writeReg_pc (x : RegIdx) (b : Byte) : (writeReg x b s).pc = s.pc := rfl
@[simp] theorem writeReg_sp (x : RegIdx) (b : Byte) : (writeReg x b s).sp = s.sp := rfl
@[simp] theorem writeReg_stack (x : RegIdx) (b : Byte) : (writeReg x b s).stack = s.stack := rfl
@[simp] theorem writeReg_dt (x : RegIdx) (b : Byte) : (writeReg x b s).dt = s.dt := rfl
@[simp] theorem writeReg_st (x : RegIdx) (b : Byte) : (writeReg x b s).st = s.st := rfl
@[simp] theorem writeReg_keys (x : RegIdx) (b : Byte) : (writeReg x b s).keys = s.keys := rfl
@[simp] theorem writeReg_disp (x : RegIdx) (b : Byte) : (writeReg x b s).disp = s.disp := rfl
@[simp] theorem writeReg_steps (x : RegIdx) (b : Byte) : (writeReg x b s).steps = s.steps := rfl
@[simp] theorem writeReg_quit (x : RegIdx) (b : Byte) : (writeReg x b s).quit = s.quit := rfl
@[simp] theorem writeReg_err (x : RegIdx) (b : Byte) : (writeReg x b s).err = s.err := rfl
@[simp] theorem writeReg_draws (x : RegIdx) (b : Byte) : (writeReg x b s).draws = s.draws := rfl
@[simp] theorem stackSet_mem (k : Nat) (a : Word) : (stackSet k a s).mem = s.mem := rfl
@[simp] theorem stackSet_v (k : Nat) (a : Word) : (stackSet k a s).v = s.v := rfl
@[simp] theorem stackSet_i (k : Nat) (a : Word) : (stackSet k a s).i = s.i := rfl
@[simp] theorem stackSet_pc (k : Nat) (a : Word) : (stackSet k a s).pc = s.pc := rfl
@[simp] theorem stackSet_sp (k : Nat) (a : Word) : (stackSet k a s).sp = s.sp := rfl
@[simp] theorem stackSet_dt (k : Nat) (a : Word) : (stackSet k a s).dt = s.dt := rfl
@[simp] theorem stackSet_st (k : Nat) (a : Word) : (stackSet k a s).st = s.st := rfl
@[simp] theorem stackSet_keys (k : Nat) (a : Word) : (stackSet k a s).keys = s.keys := rfl
@[simp] theorem stackSet_disp (k : Nat) (a : Word) : (stackSet k a s).disp = s.disp := rfl
@[simp] theorem stackSet_steps (k : Nat) (a : Word) : (stackSet k a s).steps = s.steps := rfl
@[simp] theorem stackSet_quit (k : Nat) (a : Word) : (stackSet k a s).quit = s.quit := rfl
@[simp] theorem stackSet_err (k : Nat) (a : Word) : (stackSet k a s).err = s.err := rfl
@[simp] theorem stackSet_draws (k : Nat) (a : Word) : (stackSet k a s).draws = s.draws := rfl
@[simp] theorem advance_mem : (advance s).mem = s.mem := rfl
@[simp] theorem advance_v : (advance s).v = s.v := rfl
@[simp] theorem advance_i : (advance s).i = s.i := rfl
@[simp] theorem advance_sp : (advance s).sp = s.sp := rfl
@[simp] theorem advance_stack : (advance s).stack = s.stack := rfl
@[simp] theorem advance_dt : (advance s).dt = s.dt := rfl
@[simp] theorem advance_st : (advance s).st = s.st := rfl
@[simp] theorem advance_keys : (advance s).keys = s.keys := rfl
@[simp] theorem advance_disp : (advance s).disp = s.disp := rfl
@[simp] theorem advance_steps : (advance s).steps = s.steps := rfl
@[simp] theorem advance_quit : (advance s).quit = s.quit := rfl
@[simp] theorem advance_err : (advance s).err = s.err := rfl
@[simp] theorem advance_draws : (advance s).draws = s.draws := rfl
@[simp] theorem skipIf_mem (c : Bool) : (skipIf c s).mem = s.mem := by cases c <;> rfl
@[simp] theorem skipIf_v (c : Bool) : (skipIf c s).v = s.v := by cases c <;> rfl
@[simp] theorem skipIf_i (c : Bool) : (skipIf c s).i = s.i := by cases c <;> rfl
@[simp] theorem skipIf_sp (c : Bool) : (skipIf c s).sp = s.sp := by cases c <;> rfl
@[simp] theorem skipIf_stack (c : Bool) : (skipIf c s).stack = s.stack := by cases c <;> rfl
@[simp] theorem skipIf_dt (c : Bool) : (skipIf c s).dt = s.dt := by cases c <;> rfl
@[simp] theorem skipIf_st (c : Bool) : (skipIf c s).st = s.st := by cases c <;> rfl
@[simp] theorem skipIf_keys (c : Bool) : (skipIf c s).keys = s.keys := by cases c <;> rfl
@[simp] theorem skipIf_disp (c : Bool) : (skipIf c s).disp = s.disp := by cases c <;> rfl
@[simp] theorem skipIf_steps (c : Bool) : (skipIf c s).steps = s.steps := by cases c <;> rfl
@[simp] theorem skipIf_quit (c : Bool) : (skipIf c s).quit = s.quit := by cases c <;> rfl
@[simp] theorem skipIf_err (c : Bool) : (skipIf c s).err = s.err := by cases c <;> rfl
@[simp] theorem skipIf_draws (c : Bool) : (skipIf c s).draws = s.draws := by cases c <;> rfl
@[simp] theorem setKey_mem (k : Nat) (b : Bool) : (setKey k b s).mem = s.mem := rfl
@[simp] theorem setKey_v (k : Nat) (b : Bool) : (setKey k b s).v = s.v := rfl
@[simp] theorem setKey_i (k : Nat) (b : Bool) : (setKey k b s).i = s.i := rfl
@[simp] theorem setKey_pc (k : Nat) (b : Bool) : (setKey k b s).pc = s.pc := rfl
@[simp] theorem setKey_sp (k : Nat) (b : Bool) : (setKey k b s).sp = s.sp := rfl
@[simp] theorem setKey_stack (k : Nat) (b : Bool) : (setKey k b s).stack = s.stack := rfl
@[simp] theorem setKey_dt (k : Nat) (b : Bool) : (setKey k b s).dt = s.dt := rfl
@[simp] theorem setKey_st (k : Nat) (b : Bool) : (setKey k b s).st = s.st := rfl
@[simp] theorem setKey_disp (k : Nat) (b : Bool) : (setKey k b s).disp = s.disp := rfl
@[simp] theorem setKey_steps (k : Nat) (b : Bool) : (setKey k b s).steps = s.steps := rfl
@[simp] theorem setKey_quit (k : Nat) (b : Bool) : (setKey k b s).quit = s.quit := rfl
@[simp] theorem setKey_err (k : Nat) (b : Bool) : (setKey k b s).err = s.err := rfl
@[simp] theorem setKey_draws (k : Nat) (b : Bool) : (setKey k b s).draws = s.draws := rfl
@[simp] theorem tick_mem : (tick s).mem = s.mem := rfl
@[simp] theorem tick_v : (tick s).v = s.v := rfl
@[simp] theorem tick_i : (tick s).i = s.i := rfl
@[simp] theorem tick_pc : (tick s).pc = s.pc := rfl
@[simp] theorem tick_sp : (tick s).sp = s.sp := rfl
@[simp] theorem tick_stack : (tick s).stack = s.stack := rfl
@[simp] theorem tick_keys : (tick s).keys = s.keys := rfl
@[simp] theorem tick_disp : (tick s).disp = s.disp := rfl
@[simp] theorem tick_steps : (tick s).steps = s.steps := rfl
@[simp] theorem tick_quit : (tick s).quit = s.quit := rfl
@[simp] theorem tick_err : (tick s).err = s.err := rfl
@[simp] theorem tick_draws : (tick s).draws = s.draws := rfl

@[simp] theorem advance_pc : (advance s).pc = s.pc + 2 := rfl
@[simp] theorem tick_dt : (tick s).dt = countDown s.dt := rfl
@[simp] theorem tick_st : (tick s).st = countDown s.st := rfl
@[simp] theorem readReg_advance (x : RegIdx) : readReg x (advance s) = readReg x s := rfl
@[simp] theorem readReg_skipIf (x : RegIdx) (c : Bool) : readReg x (skipIf c s) = readReg x s := by
  cases c <;> rfl
@[simp] theorem readReg_stackSet (x : RegIdx) (k : Nat) (a : Word) :
    readReg x (stackSet k a s) = readReg x s := rfl
@[simp] theorem readReg_setKey (x : RegIdx) (k : Nat) (b : Bool) :
    readReg x (setKey k b s) = readReg x s := rfl
@[simp] theorem readReg_tick (x : RegIdx) : readReg x (tick s) = readReg x s := rfl
@[simp] theorem stackGet_advance (k : Nat) : stackGet k (advance s) = stackGet k s := rfl
@[simp] theorem stackGet_skipIf (k : Nat) (c : Bool) : stackGet k (skipIf c s) = stackGet k s := by
  cases c <;> rfl
@[simp] theorem stackGet_writeReg (k : Nat) (x : RegIdx) (b : Byte) :
    stackGet k (writeReg x b s) = stackGet k s := rfl
@[simp] theorem stackGet_setKey (k : Nat) (j : Nat) (b : Bool) :
    stackGet k (setKey j b s) = stackGet k s := rfl
@[simp] theorem stackGet_tick (k : Nat) : stackGet k (tick s) = stackGet k s := rfl

/-- A taken skip moves `pc` by 2 more (41_skips.md R110). -/
theorem skipIf_pc (c : Bool) : (skipIf c s).pc = if c then s.pc + 2 else s.pc := by cases c <;> rfl

/-- A register read after a register write: the value written there, elsewhere the old one. -/
@[simp] theorem readReg_writeReg (x y : RegIdx) (b : Byte) :
    readReg y (writeReg x b s) = if y = x then b else readReg y s := by
  unfold readReg writeReg State.setV
  simp only [Vector.getElem_set, BitVec.toNat_inj]
  by_cases h : x = y
  · simp [h]
  · have : ¬ y = x := fun e => h e.symm
    simp [h, this]

/-- A stack entry read after one is written, below 16. -/
theorem stackGet_stackSet (j k : Nat) (hj : j < 16) (a : Word) :
    stackGet k (stackSet j a s) = if k = j then a else stackGet k s := by
  unfold stackGet stackSet State.setStack
  simp only [Vector.getElem?_setIfInBounds]
  by_cases h : j = k
  · subst h; simp [hj]
  · have : ¬ k = j := fun e => h e.symm
    simp [h, this]

/-- A key flag read after one is written, below 16. -/
theorem keyLevel_setKey (j k : Nat) (hj : j < 16) (b : Bool) :
    keyLevel k (setKey j b s) = if k = j then b else keyLevel k s := by
  unfold keyLevel setKey State.setKeys
  simp only [Vector.getElem?_setIfInBounds]
  by_cases h : j = k
  · subst h; simp [hj]
  · have : ¬ k = j := fun e => h e.symm
    simp [h, this]

/-- What `retire` answers: a next state, one more step counted, nothing else changed. -/
theorem retire_eq : retire s = .next (s.setSteps (s.steps + 1)) := rfl

/-- What `raise` answers: a next state, the old one with the error latched. -/
theorem raise_eq (e : Err) : raise e s = .next (s.setErr (some e)) := rfl

/-- The registers after a register load: `V[k]` from memory up to `x`, the rest kept. -/
theorem readReg_loadedRegs (x r : RegIdx) (base : Nat) :
    readReg r (s.setV (loadedRegs x base s)) =
      if r.toNat ≤ x.toNat then memGet s.mem (base + r.toNat) else readReg r s := by
  unfold readReg State.setV loadedRegs regCount
  simp only [Vector.getElem_ofFn, Nat.lt_succ_iff]

/-- The bytes stored by `Fx55`: byte `k` is `V[k]`. -/
theorem regBytes_getD (x r : RegIdx) (h : r.toNat ≤ x.toNat) :
    (regBytes x s)[r.toNat]?.getD 0 = readReg r s := by
  unfold regBytes regCount readReg
  have hr : r.toNat < 16 := r.isLt
  rw [List.getElem?_take_of_lt (by omega), Vector.getElem?_toList, Vector.getElem?_eq_getElem hr]
  rfl

theorem regBytes_length (x : RegIdx) : (regBytes x s).length = x.toNat + 1 := by
  have hx : x.toNat < 16 := x.isLt
  simp [regBytes, regCount]
  omega

end

/-- The range check passes exactly when every address of the range is below 4096 (20_memory.md R54). -/
theorem rangeError_eq_none (base count : Nat) :
    rangeError base count = none ↔ (0 < count → base + count ≤ 4096) := by
  unfold rangeError Config.memSize
  split_ifs with h <;> simp only [false_iff, true_iff] <;> omega

/-- The one error of the range check: E2 of the lowest address outside (20_memory.md R54). -/
theorem rangeError_eq_some (base count : Nat) (e : Err) :
    rangeError base count = some e ↔
      0 < count ∧ 4096 < base + count ∧ e = .memoryOutOfBounds (max base 4096) := by
  unfold rangeError Config.memSize
  split_ifs with h
  · simp only [Option.some.injEq]
    constructor
    · rintro rfl; exact ⟨h.1, by omega, rfl⟩
    · rintro ⟨-, -, rfl⟩; rfl
  · simp only [false_iff]
    omega

/-! Operands, flags, timers and keys as numbers. -/

theorem zext12_toNat (n : Addr12) : (zext12 n).toNat = n.toNat := by
  unfold zext12
  rw [BitVec.toNat_setWidth]
  have := n.isLt
  omega

theorem zext8_toNat (b : Byte) : (zext8 b).toNat = b.toNat := by
  unfold zext8
  rw [BitVec.toNat_setWidth]
  have := b.isLt
  omega

theorem glyphAddr_toNat (b : Byte) : (glyphAddr b).toNat = 5 * b.toNat := by
  have := b.isLt
  simp [glyphAddr, Config.glyphSize]
  omega

theorem flagByte_toNat (c : Bool) : (flagByte c).toNat = if c then 1 else 0 := by cases c <;> rfl

theorem shiftedOutLow_toNat (a : Byte) : (shiftedOutLow a).toNat = a.toNat % 2 := by
  unfold shiftedOutLow
  rw [BitVec.toNat_and]
  exact Nat.and_one_is_mod _

theorem shiftedOutHigh_toNat (a : Byte) : (shiftedOutHigh a).toNat = a.toNat / 128 := by
  revert a
  decide

theorem countDown_toNat (b : Byte) : (countDown b).toNat = b.toNat - 1 := by
  revert b
  decide

/-- The pressed keys are those whose flag is set. -/
theorem mem_pressedKeys (s : State) (k : Fin 16) :
    k ∈ pressedKeys s ↔ keyLevel k.val s = true := by
  simp [pressedKeys]

theorem pressedKeys_isEmpty (s : State) :
    (pressedKeys s).isEmpty = true ↔ ∀ k < 16, keyLevel k s = false := by
  simp only [pressedKeys, List.isEmpty_iff, List.filter_eq_nil_iff, List.mem_finRange, true_imp_iff,
    Bool.not_eq_true]
  exact ⟨fun h k hk => h ⟨k, hk⟩, fun h k => h k.val k.isLt⟩

/-- `KEY_PICK` names a member of a non-empty set (45_keypad_timers.md R193). -/
theorem pickKey_mem (l : List (Fin 16)) (h : l ≠ []) : ∃ k ∈ l, pickKey l = some k := by
  match l with
  | [] => exact absurd rfl h
  | [k] => exact ⟨k, List.mem_cons_self, rfl⟩
  | k :: k' :: ks =>
    unfold pickKey
    by_cases hp : Config.keyPick (k :: k' :: ks) ∈ k :: k' :: ks
    · exact ⟨_, hp, by simp only [hp, if_true]⟩
    · exact ⟨k, List.mem_cons_self, by simp only [hp, if_false]⟩

theorem pickKey_isSome (l : List (Fin 16)) : (pickKey l).isSome = !l.isEmpty := by
  match l with
  | [] => rfl
  | [_] => rfl
  | _ :: _ :: _ => rfl

end Sys2Proof.Machine
end

