-- ==== Sys2Proof/Laws/Draw.lean ====
section
/-! SUPPORT. The XOR-draw engine: what one pixel does, a draw as one run over its pixels, and what a run
over pixels at different positions does. -/

namespace Sys2Proof.Machine

open Sys2Proof.Safety

/-- A pixel of a draw: its unwrapped position and its sprite bit. -/
abbrev DrawStep := Nat × Nat × Bool

/-- One pixel of a draw, as a step over `DrawStep`. -/
def drawStep (acc : Display × Bool) (p : DrawStep) : Display × Bool := drawPixel p.1 p.2.1 p.2.2 acc

/-- The pixels of a draw, row by row, column by column. -/
def drawSteps (m : Memory) (base vx vy n : Nat) : List DrawStep :=
  (List.range n).flatMap fun row => (List.range 8).map fun col =>
    (vx + col, vy + row, spriteBit (memGet m (base + row)) col)

theorem drawSprite_eq_foldl (m : Memory) (base vx vy n : Nat) (d : Display) :
    drawSprite m base vx vy n d = (drawSteps m base vx vy n).foldl drawStep (d, false) := by
  unfold drawSprite drawSteps
  rw [List.foldl_flatMap]
  congr 1

theorem mem_drawSteps (m : Memory) (base vx vy n : Nat) (p : DrawStep) :
    p ∈ drawSteps m base vx vy n ↔ ∃ row < n, ∃ col < 8,
      p = (vx + col, vy + row, spriteBit (memGet m (base + row)) col) := by
  simp only [drawSteps, List.mem_flatMap, List.mem_map, List.mem_range]
  constructor
  · rintro ⟨row, hr, col, hc, rfl⟩; exact ⟨row, hr, col, hc, rfl⟩
  · rintro ⟨row, hr, col, hc, rfl⟩; exact ⟨row, hr, col, hc, rfl⟩

theorem pixel_of_lt (d : Display) (cx cy : Nat) (h : 64 * cy + cx < 2048) :
    pixel d cx cy = d[64 * cy + cx] := by
  unfold pixel
  rw [Vector.getElem?_eq_getElem h]
  rfl

/-- One pixel, read back: a set sprite bit flips the cell of its wrapped position, and no other. -/
theorem pixel_drawPixel (px py : Nat) (bit : Bool) (acc : Display × Bool) (cx cy : Nat)
    (hx : cx < 64) (hy : cy < 32) :
    pixel (drawPixel px py bit acc).1 cx cy =
      (pixel acc.1 cx cy ^^ (bit && decide (cx = px % 64) && decide (cy = py % 32))) := by
  have h : 64 * cy + cx < 2048 := by omega
  rw [pixel_of_lt _ _ _ h, pixel_of_lt _ _ _ h]
  cases bit
  · simp [drawPixel]
  · have e : (cellIndex px py).val = 64 * (py % 32) + px % 64 := rfl
    simp only [drawPixel, if_true, Fin.getElem_fin, Vector.getElem_set, e, Bool.true_and]
    by_cases hp : cx = px % 64 ∧ cy = py % 32
    · obtain ⟨rfl, rfl⟩ := hp
      simp
    · have : ¬ 64 * (py % 32) + px % 64 = 64 * cy + cx := by omega
      rw [if_neg this]
      rcases not_and_or.1 hp with h1 | h1 <;> simp [h1]

/-- One pixel's collision: a set sprite bit on a set cell. -/
theorem drawPixel_collision (px py : Nat) (bit : Bool) (acc : Display × Bool) :
    (drawPixel px py bit acc).2 = (acc.2 || (bit && pixel acc.1 (px % 64) (py % 32))) := by
  cases bit
  · simp [drawPixel]
  · rw [pixel_of_lt _ _ _ (by omega)]
    rfl

/-- The wrapped position of a pixel. -/
def drawPos (p : DrawStep) : Nat × Nat := (p.1 % 64, p.2.1 % 32)

/-- A run over pixels at pairwise different wrapped positions (R175 (a)): a cell is flipped exactly when one of
the pixels has its bit set there. -/
theorem pixel_foldl_drawStep (ps : List DrawStep) (hd : (ps.map drawPos).Nodup)
    (acc : Display × Bool) (cx cy : Nat) (hx : cx < 64) (hy : cy < 32) :
    pixel (ps.foldl drawStep acc).1 cx cy =
      (pixel acc.1 cx cy ^^ decide (∃ p ∈ ps, p.2.2 = true ∧ drawPos p = (cx, cy))) := by
  induction ps generalizing acc with
  | nil => simp
  | cons p ps ih =>
    rw [List.map_cons, List.nodup_cons] at hd
    rw [List.foldl_cons, ih hd.2]
    unfold drawStep
    rw [pixel_drawPixel _ _ _ _ _ _ hx hy]
    have hpos : (decide (cx = p.1 % 64) && decide (cy = p.2.1 % 32)) = decide (drawPos p = (cx, cy)) := by
      simp only [drawPos, Prod.mk.injEq, Bool.decide_and, eq_comm]
    rw [Bool.and_assoc, hpos]
    by_cases hp : drawPos p = (cx, cy)
    · have hno : ¬ ∃ q ∈ ps, q.2.2 = true ∧ drawPos q = (cx, cy) := by
        rintro ⟨q, hq, -, hq2⟩
        exact hd.1 (List.mem_map.2 ⟨q, hq, by rw [hq2, hp]⟩)
      simp [hp, hno]
    · simp [hp]

/-- The collision of such a run: some pixel has its bit set on a cell that was set before the run
(R174, R175 (a)). -/
theorem foldl_drawStep_collision (ps : List DrawStep) (hd : (ps.map drawPos).Nodup)
    (acc : Display × Bool) :
    (ps.foldl drawStep acc).2 = true ↔
      acc.2 = true ∨ ∃ p ∈ ps, p.2.2 = true ∧ pixel acc.1 (drawPos p).1 (drawPos p).2 = true := by
  induction ps generalizing acc with
  | nil => simp
  | cons p ps ih =>
    rw [List.map_cons, List.nodup_cons] at hd
    rw [List.foldl_cons, ih hd.2]
    unfold drawStep
    rw [drawPixel_collision]
    have hkeep : ∀ q ∈ ps, pixel (drawPixel p.1 p.2.1 p.2.2 acc).1 (drawPos q).1 (drawPos q).2 =
        pixel acc.1 (drawPos q).1 (drawPos q).2 := by
      intro q hq
      have hne : ¬ drawPos q = drawPos p := fun e => hd.1 (List.mem_map.2 ⟨q, hq, e⟩)
      have h1 : (drawPos q).1 < 64 := Nat.mod_lt _ (by decide)
      have h2 : (drawPos q).2 < 32 := Nat.mod_lt _ (by decide)
      rw [pixel_drawPixel _ _ _ _ _ _ h1 h2]
      have : ¬ ((drawPos q).1 = p.1 % 64 ∧ (drawPos q).2 = p.2.1 % 32) := fun e =>
        hne (Prod.ext e.1 e.2)
      rcases not_and_or.1 this with h3 | h3 <;> simp [h3]
    constructor
    · rintro (h | ⟨q, hq, hb, hpx⟩)
      · rcases Bool.or_eq_true_iff.1 h with h | h
        · exact .inl h
        · rw [Bool.and_eq_true] at h
          exact .inr ⟨p, List.mem_cons_self, h.1, h.2⟩
      · rw [hkeep q hq] at hpx
        exact .inr ⟨q, List.mem_cons_of_mem p hq, hb, hpx⟩
    · rintro (h | ⟨q, hq, hb, hpx⟩)
      · exact .inl (by rw [h, Bool.true_or])
      · rcases List.mem_cons.1 hq with rfl | hq
        · refine .inl ?_
          rw [hb, Bool.true_and]
          exact Bool.or_eq_true_iff.2 (.inr hpx)
        · exact .inr ⟨q, hq, hb, by rw [hkeep q hq]; exact hpx⟩

end Sys2Proof.Machine
end

