-- ==== Sys2Proof/Laws/Fetch.lean ====
section
/-! SUPPORT. What the fetch and the step can do: the fetch's three outcomes, and the one inversion lemma
of `step`. -/

namespace Sys2Proof.Machine

theorem getLsbD_zero_iff_odd (w : Word) : w.getLsbD 0 = true ↔ w.toNat % 2 = 1 := by
  rw [BitVec.getLsbD, Nat.testBit_zero, decide_eq_true_eq]

theorem fetchable_iff (pc : Word) :
    fetchable pc = true ↔ pc.toNat % 2 = 0 ∧ pc.toNat + 1 < 4096 := by
  unfold fetchable Config.memSize
  rw [Bool.and_eq_true, Bool.not_eq_true', decide_eq_true_eq, ← Bool.not_eq_true,
    getLsbD_zero_iff_odd]
  omega

/-- The fetch of an odd `pc` (20_memory.md R56). -/
theorem fetchWord_odd (s : State) (h : s.pc.toNat % 2 = 1) :
    fetchWord s = .error (.misalignedFetch s.pc) := by
  unfold fetchWord
  rw [if_pos ((getLsbD_zero_iff_odd _).2 h)]

/-- The fetch of an even `pc` past the end of memory (20_memory.md R56). -/
theorem fetchWord_high (s : State) (h : s.pc.toNat % 2 = 0) (h2 : 4096 ≤ s.pc.toNat + 1) :
    fetchWord s = .error (.memoryOutOfBounds s.pc.toNat) := by
  unfold fetchWord
  have h0 : ¬ s.pc.getLsbD 0 = true := by rw [getLsbD_zero_iff_odd]; omega
  have hm : max s.pc.toNat 4096 = s.pc.toNat := by omega
  rw [if_neg h0, (rangeError_eq_some s.pc.toNat Config.iLen (.memoryOutOfBounds s.pc.toNat)).2
    ⟨by decide, by unfold Config.iLen; omega, by rw [hm]⟩]

/-- The fetch of a readable `pc`: the two bytes there, high byte first (20_memory.md R55). -/
theorem fetchWord_ok (s : State) (h : s.pc.toNat % 2 = 0) (h2 : s.pc.toNat + 1 < 4096) :
    fetchWord s = .ok (wordOfBytes (memGet s.mem s.pc.toNat) (memGet s.mem (s.pc.toNat + 1))) := by
  unfold fetchWord
  have h0 : ¬ s.pc.getLsbD 0 = true := by rw [getLsbD_zero_iff_odd]; omega
  rw [if_neg h0, (rangeError_eq_none s.pc.toNat Config.iLen).2
    (by intro; unfold Config.iLen; omega)]

/-- An instruction is fetched only from a readable `pc`, and it is what the word there decodes to. -/
theorem fetchInstr_ok (s : State) (i : Instr) (h : fetchInstr s = .ok i) :
    s.pc.toNat % 2 = 0 ∧ s.pc.toNat + 1 < 4096 ∧
      decodeWord (wordOfBytes (memGet s.mem s.pc.toNat) (memGet s.mem (s.pc.toNat + 1))) = some i := by
  rcases Nat.mod_two_eq_zero_or_one s.pc.toNat with h0 | h1
  · rcases Nat.lt_or_ge (s.pc.toNat + 1) 4096 with h2 | h2
    · refine ⟨h0, h2, ?_⟩
      unfold fetchInstr at h
      rw [fetchWord_ok s h0 h2] at h
      dsimp only at h
      split at h
      · rename_i j hj
        cases h
        exact hj
      · cases h
    · unfold fetchInstr at h
      rw [fetchWord_high s h0 h2] at h
      cases h
  · unfold fetchInstr at h
    rw [fetchWord_odd s h1] at h
    cases h

/-- What a step can be: a halted block unchanged, an error of the fetch or of dispatch latched, or the
execution of the instruction fetched. -/
theorem step_cases (s : State) :
    (∃ e, s.err = some e ∧ step s = .next s) ∨
    (∃ e, s.err = none ∧ fetchInstr s = .error e ∧ step s = .next (s.setErr (some e))) ∨
    (∃ i, s.err = none ∧ fetchInstr s = .ok i ∧ step s = exec i s) := by
  unfold step
  cases he : s.err with
  | some e => exact .inl ⟨e, rfl, rfl⟩
  | none =>
    cases hf : fetchInstr s with
    | error e => exact .inr (.inl ⟨e, rfl, rfl, rfl⟩)
    | ok i => exact .inr (.inr ⟨i, rfl, rfl, rfl⟩)

/-- What a step that answers a next state did. -/
theorem step_next_cases (s t : State) (h : step s = .next t) :
    (∃ e, s.err = some e ∧ t = s) ∨
    (∃ e, s.err = none ∧ fetchInstr s = .error e ∧ t = s.setErr (some e)) ∨
    (∃ i, s.err = none ∧ fetchInstr s = .ok i ∧ exec i s = .next t) := by
  rcases step_cases s with ⟨e, h1, h2⟩ | ⟨e, h1, h2, h3⟩ | ⟨i, h1, h2, h3⟩
  · rw [h2] at h
    cases h
    exact .inl ⟨e, h1, rfl⟩
  · rw [h3] at h
    cases h
    exact .inr (.inl ⟨e, h1, h2, rfl⟩)
  · rw [h3] at h
    exact .inr (.inr ⟨i, h1, h2, h⟩)

/-- The fetch of a readable `pc` whose bytes are those of the word `w`. -/
theorem fetchInstr_of_word (s : State) (w : Word) (h0 : s.pc.toNat % 2 = 0)
    (h1 : s.pc.toNat + 1 < 4096) (hhi : memGet s.mem s.pc.toNat = highByte w)
    (hlo : memGet s.mem (s.pc.toNat + 1) = lowByte w) :
    fetchInstr s = match decodeWord w with
      | some i => .ok i
      | none => .error (.unrecognizedInstruction w) := by
  unfold fetchInstr
  have e : fetchWord s = .ok w := by rw [fetchWord_ok s h0 h1, hhi, hlo, wordOfBytes_bytes]
  cases h : decodeWord w <;> simp only [e, h]

/-- The fetch reads `pc` and memory only. -/
theorem fetchInstr_congr (s t : State) (h1 : s.pc = t.pc) (h2 : s.mem = t.mem) :
    fetchInstr s = fetchInstr t := by
  unfold fetchInstr fetchWord
  rw [h1, h2]

/-- The hold, once the instruction at `pc` is known. -/
theorem held_of_fetchInstr (s : State) (i : Instr) (he : s.err = none) (hf : fetchInstr s = .ok i) :
    held s = (isKeyWait i && (pressedKeys s).isEmpty) := by
  unfold held
  rw [he, hf]
  rfl

end Sys2Proof.Machine
end

