-- ==== Sys2Proof/Laws/Exec.lean ====
section
/-! SUPPORT. What `exec` can do, said once: it completes, or latches an error and changes nothing else, or
is held and changes nothing. -/

namespace Sys2Proof.Machine

/-- The one error of the range check is E2, not E3. -/
theorem errCode_of_rangeError {base count : Nat} {e : Err} (h : rangeError base count = some e) :
    errCode e ≠ 3 := by
  obtain ⟨-, -, rfl⟩ := (rangeError_eq_some _ _ _).1 h
  simp [errCode]

/-- An instruction that answers a next state completed (one more step, error latch, keys and `quit` kept), or
raised an error other than E3, or was held. -/
theorem exec_next_cases (i : Instr) (s t : State) (h : exec i s = .next t) :
    (t.steps = s.steps + 1 ∧ t.err = s.err ∧ t.keys = s.keys ∧ t.quit = s.quit ∧
      (isKeyWait i && (pressedKeys s).isEmpty) = false) ∨
    (∃ e, t = s.setErr (some e) ∧ errCode e ≠ 3) ∨
    (t = s ∧ (isKeyWait i && (pressedKeys s).isEmpty) = true) := by
  cases i
  case ldVxK x =>
    have hk := pickKey_isSome (pressedKeys s)
    simp only [exec, execLdVxK] at h
    split at h
    · rename_i hp
      cases h
      rw [hp] at hk
      exact .inr (.inr ⟨rfl, by simpa [isKeyWait, pattern] using hk⟩)
    · rename_i k hp
      cases h
      rw [hp] at hk
      exact .inl ⟨rfl, rfl, rfl, rfl, by simpa [isKeyWait, pattern] using hk⟩
  case call n =>
    simp only [exec, execCall] at h
    split_ifs at h
    · cases h; exact .inr (.inl ⟨_, rfl, by decide⟩)
    · cases h; exact .inl ⟨rfl, rfl, rfl, rfl, rfl⟩
  case ret =>
    simp only [exec, execRet] at h
    split_ifs at h
    · cases h; exact .inr (.inl ⟨_, rfl, by decide⟩)
    · cases h; exact .inl ⟨rfl, rfl, rfl, rfl, rfl⟩
  case skp x =>
    simp only [exec, execSkp] at h
    split_ifs at h
    · cases h; exact .inr (.inl ⟨_, rfl, by simp [errCode]⟩)
    · cases h; exact .inl ⟨by simp, by simp, by simp, by simp, rfl⟩
  case sknp x =>
    simp only [exec, execSknp] at h
    split_ifs at h
    · cases h; exact .inr (.inl ⟨_, rfl, by simp [errCode]⟩)
    · cases h; exact .inl ⟨by simp, by simp, by simp, by simp, rfl⟩
  case ldB x =>
    simp only [exec, execLdB] at h
    split at h
    · rename_i e he; cases h; exact .inr (.inl ⟨_, rfl, errCode_of_rangeError he⟩)
    · cases h; exact .inl ⟨by simp, by simp, by simp, by simp, rfl⟩
  case stRegs x =>
    simp only [exec, execStRegs] at h
    split at h
    · rename_i e he; cases h; exact .inr (.inl ⟨_, rfl, errCode_of_rangeError he⟩)
    · cases h; exact .inl ⟨by simp, by simp, by simp, by simp, rfl⟩
  case ldRegs x =>
    simp only [exec, execLdRegs] at h
    split at h
    · rename_i e he; cases h; exact .inr (.inl ⟨_, rfl, errCode_of_rangeError he⟩)
    · cases h; exact .inl ⟨by simp, by simp, by simp, by simp, rfl⟩
  case drw x y n =>
    simp only [exec, execDrw] at h
    split at h
    · rename_i e he; cases h; exact .inr (.inl ⟨_, rfl, errCode_of_rangeError he⟩)
    · cases h; exact .inl ⟨by simp, by simp, by simp, by simp, rfl⟩
  all_goals (cases h; exact .inl ⟨by simp, by simp, by simp, by simp, rfl⟩)

end Sys2Proof.Machine
end

