-- ==== Sys2Proof/Laws/PerInstr.lean ====
section
/-! SUPPORT. Statements made once per instruction. `RowMatch`: the word of an instruction is an instance of
the row of the opcode map (30_encoding.md R86) that its pattern names. -/

namespace Sys2Proof

theorem and_formatXY (a x y d a' x' y' d' : Nibble) :
    formatXY a x y d &&& formatXY a' x' y' d' =
      formatXY (a &&& a') (x &&& x') (y &&& y') (d &&& d') := by
  unfold formatXY
  ext k hk
  rw [BitVec.getElem_and, BitVec.getElem_append, BitVec.getElem_append, BitVec.getElem_append]
  split_ifs with h
  · rw [BitVec.getElem_append, BitVec.getElem_append, BitVec.getElem_append]
    split_ifs <;> rw [BitVec.getElem_and]
  · rw [BitVec.getElem_append, BitVec.getElem_append, BitVec.getElem_append]
    split_ifs <;> rw [BitVec.getElem_and]

theorem and_formatXK (a x : Nibble) (kk : Byte) (a' x' : Nibble) (kk' : Byte) :
    formatXK a x kk &&& formatXK a' x' kk' = formatXK (a &&& a') (x &&& x') (kk &&& kk') := by
  unfold formatXK
  ext k hk
  rw [BitVec.getElem_and, BitVec.getElem_append, BitVec.getElem_append, BitVec.getElem_append]
  split_ifs with h
  · rw [BitVec.getElem_and]
  · rw [BitVec.getElem_append, BitVec.getElem_append, BitVec.getElem_append]
    split_ifs <;> rw [BitVec.getElem_and]

theorem and_formatA (a : Nibble) (nnn : Addr12) (a' : Nibble) (nnn' : Addr12) :
    formatA a nnn &&& formatA a' nnn' = formatA (a &&& a') (nnn &&& nnn') := by
  unfold formatA
  ext k hk
  rw [BitVec.getElem_and, BitVec.getElem_append, BitVec.getElem_append, BitVec.getElem_append]
  split_ifs <;> rw [BitVec.getElem_and]

end Sys2Proof

namespace Sys2Proof.Laws.RowMatch

/-- The word of `i` is an instance of the row its pattern names. -/
def Statement (i : Instr) : Prop :=
  ∃ r ∈ opcodeRows, r.name = pattern i ∧ r.matches (encode i) = true

/-- An assembled format-A word masked by 0xF000. -/
theorem mask_formatA (a : Nibble) (nnn : Addr12) (v : Word) (hv : v = formatA a 0#12) :
    (formatA a nnn &&& 0xF000#16 == v) = true := by
  rw [beq_iff_eq, show (0xF000#16 : Word) = formatA 0xF#4 0#12 by decide, and_formatA, hv,
    BitVec.and_zero, show (0xF#4 : Nibble) = BitVec.allOnes 4 by decide, BitVec.and_allOnes]

/-- An assembled format-XK word masked by 0xF000. -/
theorem mask_formatXK (a : Nibble) (x : RegIdx) (kk : Byte) (v : Word) (hv : v = formatXK a 0#4 0#8) :
    (formatXK a x kk &&& 0xF000#16 == v) = true := by
  rw [beq_iff_eq, show (0xF000#16 : Word) = formatXK 0xF#4 0#4 0#8 by decide, and_formatXK, hv,
    BitVec.and_zero, BitVec.and_zero, show (0xF#4 : Nibble) = BitVec.allOnes 4 by decide,
    BitVec.and_allOnes]

/-- An assembled format-XS word masked by 0xF0FF. -/
theorem mask_formatXS (a : Nibble) (x : RegIdx) (kk : Byte) (v : Word) (hv : v = formatXK a 0#4 kk) :
    (formatXK a x kk &&& 0xF0FF#16 == v) = true := by
  rw [beq_iff_eq, show (0xF0FF#16 : Word) = formatXK 0xF#4 0#4 0xFF#8 by decide, and_formatXK, hv,
    BitVec.and_zero, show (0xF#4 : Nibble) = BitVec.allOnes 4 by decide, BitVec.and_allOnes,
    show (0xFF#8 : Byte) = BitVec.allOnes 8 by decide, BitVec.and_allOnes]

/-- An assembled format-XY word masked by 0xF00F. -/
theorem mask_formatXY (a : Nibble) (x y : RegIdx) (d : Nibble) (v : Word)
    (hv : v = formatXY a 0#4 0#4 d) : (formatXY a x y d &&& 0xF00F#16 == v) = true := by
  rw [beq_iff_eq, show (0xF00F#16 : Word) = formatXY 0xF#4 0#4 0#4 0xF#4 by decide, and_formatXY, hv,
    BitVec.and_zero, BitVec.and_zero, show (0xF#4 : Nibble) = BitVec.allOnes 4 by decide,
    BitVec.and_allOnes, BitVec.and_allOnes]

/-- An assembled format-XYN word masked by 0xF000. -/
theorem mask_formatXYN (a : Nibble) (x y : RegIdx) (d : Nibble) (v : Word)
    (hv : v = formatXY a 0#4 0#4 0#4) : (formatXY a x y d &&& 0xF000#16 == v) = true := by
  rw [beq_iff_eq, show (0xF000#16 : Word) = formatXY 0xF#4 0#4 0#4 0#4 by decide, and_formatXY, hv,
    BitVec.and_zero, BitVec.and_zero, BitVec.and_zero,
    show (0xF#4 : Nibble) = BitVec.allOnes 4 by decide, BitVec.and_allOnes]

theorem nop : Statement .nop :=
  ⟨⟨"0000", 0xFFFF, 0x0000⟩, by decide, rfl, rfl⟩

theorem cls : Statement .cls :=
  ⟨⟨"00E0", 0xFFFF, 0x00E0⟩, by decide, rfl, rfl⟩

theorem ret : Statement .ret :=
  ⟨⟨"00EE", 0xFFFF, 0x00EE⟩, by decide, rfl, rfl⟩

theorem jp (nnn : Addr12) : Statement (.jp nnn) :=
  ⟨⟨"1nnn", 0xF000, 0x1000⟩, by decide, rfl, mask_formatA _ nnn _ (by decide)⟩

theorem call (nnn : Addr12) : Statement (.call nnn) :=
  ⟨⟨"2nnn", 0xF000, 0x2000⟩, by decide, rfl, mask_formatA _ nnn _ (by decide)⟩

theorem seImm (x : RegIdx) (kk : Byte) : Statement (.seImm x kk) :=
  ⟨⟨"3xkk", 0xF000, 0x3000⟩, by decide, rfl, mask_formatXK _ x kk _ (by decide)⟩

theorem sneImm (x : RegIdx) (kk : Byte) : Statement (.sneImm x kk) :=
  ⟨⟨"4xkk", 0xF000, 0x4000⟩, by decide, rfl, mask_formatXK _ x kk _ (by decide)⟩

theorem seReg (x y : RegIdx) : Statement (.seReg x y) :=
  ⟨⟨"5xy0", 0xF00F, 0x5000⟩, by decide, rfl, mask_formatXY _ x y _ _ (by decide)⟩

theorem ldImm (x : RegIdx) (kk : Byte) : Statement (.ldImm x kk) :=
  ⟨⟨"6xkk", 0xF000, 0x6000⟩, by decide, rfl, mask_formatXK _ x kk _ (by decide)⟩

theorem addImm (x : RegIdx) (kk : Byte) : Statement (.addImm x kk) :=
  ⟨⟨"7xkk", 0xF000, 0x7000⟩, by decide, rfl, mask_formatXK _ x kk _ (by decide)⟩

theorem ldReg (x y : RegIdx) : Statement (.ldReg x y) :=
  ⟨⟨"8xy0", 0xF00F, 0x8000⟩, by decide, rfl, mask_formatXY _ x y _ _ (by decide)⟩

theorem orReg (x y : RegIdx) : Statement (.orReg x y) :=
  ⟨⟨"8xy1", 0xF00F, 0x8001⟩, by decide, rfl, mask_formatXY _ x y _ _ (by decide)⟩

theorem andReg (x y : RegIdx) : Statement (.andReg x y) :=
  ⟨⟨"8xy2", 0xF00F, 0x8002⟩, by decide, rfl, mask_formatXY _ x y _ _ (by decide)⟩

theorem xorReg (x y : RegIdx) : Statement (.xorReg x y) :=
  ⟨⟨"8xy3", 0xF00F, 0x8003⟩, by decide, rfl, mask_formatXY _ x y _ _ (by decide)⟩

theorem addReg (x y : RegIdx) : Statement (.addReg x y) :=
  ⟨⟨"8xy4", 0xF00F, 0x8004⟩, by decide, rfl, mask_formatXY _ x y _ _ (by decide)⟩

theorem sub (x y : RegIdx) : Statement (.sub x y) :=
  ⟨⟨"8xy5", 0xF00F, 0x8005⟩, by decide, rfl, mask_formatXY _ x y _ _ (by decide)⟩

theorem shr (x y : RegIdx) : Statement (.shr x y) :=
  ⟨⟨"8xy6", 0xF00F, 0x8006⟩, by decide, rfl, mask_formatXY _ x y _ _ (by decide)⟩

theorem subn (x y : RegIdx) : Statement (.subn x y) :=
  ⟨⟨"8xy7", 0xF00F, 0x8007⟩, by decide, rfl, mask_formatXY _ x y _ _ (by decide)⟩

theorem shl (x y : RegIdx) : Statement (.shl x y) :=
  ⟨⟨"8xyE", 0xF00F, 0x800E⟩, by decide, rfl, mask_formatXY _ x y _ _ (by decide)⟩

theorem sneReg (x y : RegIdx) : Statement (.sneReg x y) :=
  ⟨⟨"9xy0", 0xF00F, 0x9000⟩, by decide, rfl, mask_formatXY _ x y _ _ (by decide)⟩

theorem ldI (nnn : Addr12) : Statement (.ldI nnn) :=
  ⟨⟨"Annn", 0xF000, 0xA000⟩, by decide, rfl, mask_formatA _ nnn _ (by decide)⟩

theorem jpV0 (nnn : Addr12) : Statement (.jpV0 nnn) :=
  ⟨⟨"Bnnn", 0xF000, 0xB000⟩, by decide, rfl, mask_formatA _ nnn _ (by decide)⟩

theorem rnd (x : RegIdx) (kk : Byte) : Statement (.rnd x kk) :=
  ⟨⟨"Cxkk", 0xF000, 0xC000⟩, by decide, rfl, mask_formatXK _ x kk _ (by decide)⟩

theorem drw (x y : RegIdx) (n : Nat) : Statement (.drw x y n) :=
  ⟨⟨"Dxyn", 0xF000, 0xD000⟩, by decide, rfl, mask_formatXYN _ x y _ _ (by decide)⟩

theorem skp (x : RegIdx) : Statement (.skp x) :=
  ⟨⟨"Ex9E", 0xF0FF, 0xE09E⟩, by decide, rfl, mask_formatXS _ x _ _ (by decide)⟩

theorem sknp (x : RegIdx) : Statement (.sknp x) :=
  ⟨⟨"ExA1", 0xF0FF, 0xE0A1⟩, by decide, rfl, mask_formatXS _ x _ _ (by decide)⟩

theorem ldVxDt (x : RegIdx) : Statement (.ldVxDt x) :=
  ⟨⟨"Fx07", 0xF0FF, 0xF007⟩, by decide, rfl, mask_formatXS _ x _ _ (by decide)⟩

theorem ldVxK (x : RegIdx) : Statement (.ldVxK x) :=
  ⟨⟨"Fx0A", 0xF0FF, 0xF00A⟩, by decide, rfl, mask_formatXS _ x _ _ (by decide)⟩

theorem ldDtVx (x : RegIdx) : Statement (.ldDtVx x) :=
  ⟨⟨"Fx15", 0xF0FF, 0xF015⟩, by decide, rfl, mask_formatXS _ x _ _ (by decide)⟩

theorem ldStVx (x : RegIdx) : Statement (.ldStVx x) :=
  ⟨⟨"Fx18", 0xF0FF, 0xF018⟩, by decide, rfl, mask_formatXS _ x _ _ (by decide)⟩

theorem addI (x : RegIdx) : Statement (.addI x) :=
  ⟨⟨"Fx1E", 0xF0FF, 0xF01E⟩, by decide, rfl, mask_formatXS _ x _ _ (by decide)⟩

theorem ldF (x : RegIdx) : Statement (.ldF x) :=
  ⟨⟨"Fx29", 0xF0FF, 0xF029⟩, by decide, rfl, mask_formatXS _ x _ _ (by decide)⟩

theorem ldB (x : RegIdx) : Statement (.ldB x) :=
  ⟨⟨"Fx33", 0xF0FF, 0xF033⟩, by decide, rfl, mask_formatXS _ x _ _ (by decide)⟩

theorem stRegs (x : RegIdx) : Statement (.stRegs x) :=
  ⟨⟨"Fx55", 0xF0FF, 0xF055⟩, by decide, rfl, mask_formatXS _ x _ _ (by decide)⟩

theorem ldRegs (x : RegIdx) : Statement (.ldRegs x) :=
  ⟨⟨"Fx65", 0xF0FF, 0xF065⟩, by decide, rfl, mask_formatXS _ x _ _ (by decide)⟩

end Sys2Proof.Laws.RowMatch
end

