-- ==== Sys2Proof/Laws/Run.lean ====
section
/-! SUPPORT. The loop of `run` (60_exceptions.md R236): what its moves do, one at a time. -/

namespace Sys2Proof.Machine

/-- Events in a row act on the state and leave the loop where it stands. -/
theorem runFrom_events (p : LoopPoint) (es : List EnvEvent) (rest : List RunMove) (s : State) :
    runFrom p (es.map .event ++ rest) s = runFrom p rest (applyEvents s es) := by
  induction es generalizing s with
  | nil => rfl
  | cons e es ih => simpa [runFrom, applyEvents] using ih (applyEvent s e)

/-- The test with `quit` set. -/
theorem runFrom_test_quit (rest : List RunMove) (s : State) (hq : s.quit = true) :
    runFrom .test (.loop :: rest) s = .stopped s := by simp [runFrom, hq]

/-- The test with an error latched and `quit` clear. -/
theorem runFrom_test_err (rest : List RunMove) (s : State) (e : Err) (hq : s.quit = false)
    (he : s.err = some e) : runFrom .test (.loop :: rest) s = .error e s := by simp [runFrom, hq, he]

/-- The test passed. -/
theorem runFrom_test_pass (rest : List RunMove) (s : State) (hq : s.quit = false) (he : s.err = none) :
    runFrom .test (.loop :: rest) s = runFrom .step rest s := by simp [runFrom, hq, he]

/-- The step kept waiting by a hold. -/
theorem runFrom_step_held (rest : List RunMove) (s : State) (hh : held s = true) :
    runFrom .step (.loop :: rest) s = runFrom .step rest s := by simp [runFrom, hh]

/-- The step made. -/
theorem runFrom_step_next (rest : List RunMove) (s t : State) (hh : held s = false)
    (h : step s = .next t) : runFrom .step (.loop :: rest) s = runFrom .test rest t := by
  simp [runFrom, hh, h]

/-- A run that returns `Stopped` saw `quit` set in the state it returns. -/
theorem runFrom_stopped (script : List RunMove) (p : LoopPoint) (s t : State)
    (h : runFrom p script s = .stopped t) : t.quit = true := by
  induction script generalizing p s with
  | nil => cases p <;> simp [runFrom] at h
  | cons m rest ih =>
    cases m with
    | event e => exact ih p _ (by cases p <;> simpa [runFrom] using h)
    | loop =>
      cases p with
      | test =>
        by_cases hq : s.quit = true
        · rw [runFrom_test_quit rest s hq] at h
          cases h
          exact hq
        · have hq' : s.quit = false := by simpa using hq
          cases he : s.err with
          | some e => rw [runFrom_test_err rest s e hq' he] at h; cases h
          | none => exact ih _ _ (runFrom_test_pass rest s hq' he ▸ h)
      | step =>
        cases hh : held s with
        | true => exact ih _ _ (runFrom_step_held rest s hh ▸ h)
        | false =>
          cases hs : step s with
          | next u => exact ih _ _ (runFrom_step_next rest s u hh hs ▸ h)
          | fault f => simp [runFrom, hh, hs] at h
          | refused r => simp [runFrom, hh, hs] at h

/-- Events keep the error latch. -/
@[simp] theorem applyEvents_err (s : State) (es : List EnvEvent) : (applyEvents s es).err = s.err := by
  induction es generalizing s with
  | nil => rfl
  | cons e es ih => exact (ih (applyEvent s e)).trans (by cases e <;> rfl)

/-- Events leave `quit` set exactly when it was set or `quit` is one of them. -/
theorem applyEvents_quit (s : State) (es : List EnvEvent) :
    (applyEvents s es).quit = (s.quit || decide (EnvEvent.quit ∈ es)) := by
  induction es generalizing s with
  | nil => simp [applyEvents]
  | cons e es ih =>
    refine (ih (applyEvent s e)).trans ?_
    cases e <;> simp [applyEvent, requestQuit, State.setQuit, tick, setKey, State.setDt, State.setSt,
      State.setKeys]

/-- A step keeps `quit`. -/
theorem step_quit (s t : State) (h : step s = .next t) : t.quit = s.quit := by
  rcases step_next_cases s t h with ⟨e, -, rfl⟩ | ⟨e, -, -, rfl⟩ | ⟨i, -, -, hi⟩
  · rfl
  · rfl
  · rcases exec_next_cases i s t hi with ⟨-, -, -, hq, -⟩ | ⟨e, rfl, -⟩ | ⟨rfl, -⟩
    · exact hq
    · rfl
    · rfl

end Sys2Proof.Machine
end

