-- ==== Sys2Proof/Tests/Slice0.lean ====
section
/-! SUPPORT. Tests. Expected results come from spec/95_test_vectors.md (the vector's id is named) and from the
encodings of 30_encoding.md. The theorems named test_witness_... show states that meet a statement's
hypotheses. -/

namespace Sys2Proof.Tests

open Sys2Proof Sys2Proof.Machine Sys2Proof.Safety

/-- The state with a word stored at an address and `pc` there. -/
def placed (a : Nat) (w : Word) (s : State) : State :=
  (s.setMem (storeWord s.mem a w)).setPc (BitVec.ofNat 16 a)

/-- The next state, if there is one. -/
def after : Host.Outcome State Fault Refusal → Option State
  | .next s => some s
  | .fault _ => none
  | .refused _ => none

/-- One step from reset changed by `f`, with the word at 0x200; what `g` reads afterwards. -/
def stepWith {α : Type} (w : Word) (f : State → State) (g : State → α) : Option α :=
  (after (step (placed 0x200 w (f State.reset)))).map g

/-- Two registers set. -/
def regs2 (x : RegIdx) (a : Byte) (y : RegIdx) (b : Byte) (s : State) : State :=
  writeReg y b (writeReg x a s)

/-- Registers 1 and 15. -/
def r1f (s : State) : Byte × Byte := (readReg 1 s, readReg vf s)

/-! ## Well-formedness: each check refuses an ill-formed term -/

theorem test_wf_refuses_sixteen_rows : Instr.wellFormed (.drw 1 2 16) = false := by decide
theorem test_wf_accepts_fifteen_rows : Instr.wellFormed (.drw 1 2 15) = true := by decide
theorem test_wf_refuses_long_rom : romFits (List.replicate 3585 0) = false := by
  unfold romFits Config.romMax
  rw [List.length_replicate]
  decide
theorem test_wf_refuses_key_sixteen : keyExists 16 = false := by decide

/-! ## Decoding: a word of every constructor, written out from the encodings of R86 and R82 -/

theorem test_decode_fixed : decodeWord 0x0000 = some .nop ∧ decodeWord 0x00E0 = some .cls ∧
    decodeWord 0x00EE = some .ret := by decide
theorem test_decode_address : decodeWord 0x1ABC = some (.jp 0xABC) ∧
    decodeWord 0x2210 = some (.call 0x210) ∧ decodeWord 0xA300 = some (.ldI 0x300) ∧
    decodeWord 0xBFFE = some (.jpV0 0xFFE) := by decide
theorem test_decode_immediate : decodeWord 0x3142 = some (.seImm 1 0x42) ∧
    decodeWord 0x4A7F = some (.sneImm 10 0x7F) ∧ decodeWord 0x6A3C = some (.ldImm 10 0x3C) ∧
    decodeWord 0x71FF = some (.addImm 1 0xFF) ∧ decodeWord 0xC10F = some (.rnd 1 0x0F) := by decide
theorem test_decode_registers : decodeWord 0x5120 = some (.seReg 1 2) ∧
    decodeWord 0x9120 = some (.sneReg 1 2) ∧ decodeWord 0x8120 = some (.ldReg 1 2) ∧
    decodeWord 0x8121 = some (.orReg 1 2) ∧ decodeWord 0x8122 = some (.andReg 1 2) ∧
    decodeWord 0x8123 = some (.xorReg 1 2) := by decide
theorem test_decode_arithmetic : decodeWord 0x8124 = some (.addReg 1 2) ∧
    decodeWord 0x8125 = some (.sub 1 2) ∧ decodeWord 0x8126 = some (.shr 1 2) ∧
    decodeWord 0x8127 = some (.subn 1 2) ∧ decodeWord 0x812E = some (.shl 1 2) := by decide
theorem test_decode_draw_and_keys : decodeWord 0xD125 = some (.drw 1 2 5) ∧
    decodeWord 0xE19E = some (.skp 1) ∧ decodeWord 0xE2A1 = some (.sknp 2) := by decide
theorem test_decode_f : decodeWord 0xF107 = some (.ldVxDt 1) ∧ decodeWord 0xF10A = some (.ldVxK 1) ∧
    decodeWord 0xF015 = some (.ldDtVx 0) ∧ decodeWord 0xF318 = some (.ldStVx 3) ∧
    decodeWord 0xF21E = some (.addI 2) ∧ decodeWord 0xF029 = some (.ldF 0) ∧
    decodeWord 0xF033 = some (.ldB 0) ∧ decodeWord 0xF255 = some (.stRegs 2) ∧
    decodeWord 0xF265 = some (.ldRegs 2) := by decide
/-- Section 2.1 of the vectors: the illegal words. -/
theorem test_decode_illegal : [0x0001, 0x00E1, 0x00FF, 0x0100, 0x5121, 0x8128, 0x812F, 0x9121, 0xE19F,
    0xF130, 0xFFFF].map (fun w => decodeWord w) = List.replicate 11 none := by decide
theorem test_decode_bytes : decode [0x81, 0x24, 0x99] = .ok (.addReg 1 2, [0x99]) ∧
    decode [0x81, 0x28] = .error (.unrecognized 0x8128) ∧ decode [0x81] = .error .truncated := by
  refine ⟨rfl, rfl, rfl⟩
theorem test_encode_bytes : encodeBytes (.addReg 1 2) = [0x81, 0x24] := by decide
theorem test_table_word : decodeTableWord 16 0xF265 = some (.ldRegs 2) := by decide
theorem test_opcode_rows : opcodeRows.length = 35 := by decide

/-! ## Control flow (vectors 2.2) -/

theorem test_nop_C1 : stepWith 0x0000 id (fun t => (t.pc, t.steps)) = some (0x202, 1) := by decide
theorem test_jp_C4 : stepWith 0x1205 id (fun t => (t.pc, t.err)) = some (0x205, none) := by decide
theorem test_call_C5 : (after (step (placed 0x204 0x2210 State.reset))).map
    (fun t => (t.pc, t.sp, stackGet 0 t)) = some (0x210, 1, 0x206) := by decide
theorem test_call_C7 : (after (step (placed 0x204 0x2210 (State.reset.setSp 16)))).map
    (fun t => (t.pc, t.sp, t.err, t.steps)) = some (0x204, 16, some .stackOverflow, 0) := by decide
theorem test_ret_C9 : stepWith 0x00EE (fun s => stackSet 15 0xABC (s.setSp 16)) (fun t => (t.pc, t.sp)) =
    some (0xABC, 15) := by decide
theorem test_ret_C10 : stepWith 0x00EE id (fun t => (t.pc, t.sp, t.err)) =
    some (0x200, 0, some .stackUnderflow) := by decide
theorem test_jpV0_C13 : stepWith 0xBFFF (writeReg 0 0xFF) (fun t => t.pc) = some 0x10FE := by decide

/-! ## Skips (vectors 2.3) -/

theorem test_seImm_K1 : stepWith 0x3100 id (fun t => t.pc) = some 0x204 := by decide
theorem test_seImm_K2 : stepWith 0x3100 (writeReg 1 4) (fun t => t.pc) = some 0x202 := by decide
theorem test_sneImm_K3 : stepWith 0x4A7F (writeReg 10 0x7F) (fun t => t.pc) = some 0x202 := by decide
theorem test_sneImm_K4 : stepWith 0x4A7F (writeReg 10 0x80) (fun t => t.pc) = some 0x204 := by decide
theorem test_seReg_K5 : stepWith 0x5120 (regs2 1 0x33 2 0x33) (fun t => t.pc) = some 0x204 := by decide
theorem test_seReg_K6 : stepWith 0x5120 (regs2 1 0x33 2 0x34) (fun t => t.pc) = some 0x202 := by decide
theorem test_sneReg_K8 : stepWith 0x9120 (regs2 1 0x33 2 0x34) (fun t => t.pc) = some 0x204 := by decide
theorem test_sneReg_K9 : stepWith 0x9330 (writeReg 3 7) (fun t => t.pc) = some 0x202 := by decide

/-! ## Arithmetic (vectors of part 1 and 2.4) -/

theorem test_ldImm_A2 : stepWith 0x6F07 id (readReg vf) = some 0x07 := by decide
theorem test_addImm_S1 : stepWith 0x7101 (regs2 1 0xFF vf 7) r1f = some (0, 7) := by decide
theorem test_addImm_A4 : stepWith 0x7F01 (writeReg vf 0xFF) (readReg vf) = some 0 := by decide
theorem test_ldReg_A5 : stepWith 0x8120 (writeReg 2 0x9A) (readReg 1) = some 0x9A := by decide
theorem test_or_A6 : stepWith 0x8121 (fun s => writeReg vf 1 (regs2 1 0xF0 2 0x0F s)) r1f =
    some (0xFF, 1) := by decide
theorem test_and_A7 : stepWith 0x8122 (regs2 1 0xF3 2 0x3F) (readReg 1) = some 0x33 := by decide
theorem test_xor_A8 : stepWith 0x8123 (fun s => writeReg vf 1 (regs2 1 0xFF 2 0x0F s)) r1f =
    some (0xF0, 1) := by decide
theorem test_xor_A9 : stepWith 0x8113 (writeReg 1 0x5A) (readReg 1) = some 0 := by decide
theorem test_add_A10 : stepWith 0x8124 (regs2 1 0x80 2 0x80) r1f = some (0, 1) := by decide
theorem test_add_A13 : stepWith 0x8F14 (regs2 vf 0xF0 1 0x20) (readReg vf) = some 1 := by decide
theorem test_sub_S4 : stepWith 0x8125 (fun s => writeReg vf 1 (regs2 1 1 2 2 s)) r1f =
    some (0xFF, 0) := by decide
theorem test_sub_A17 : stepWith 0x8125 (regs2 1 5 2 5) r1f = some (0, 1) := by decide
theorem test_shr_A23 : stepWith 0x81A6 (regs2 1 5 10 0xEE) (fun t => (r1f t, readReg 10 t)) =
    some ((2, 1), 0xEE) := by decide
theorem test_shr_A25 : stepWith 0x8F06 (writeReg vf 0xFF) (readReg vf) = some 0 := by decide
theorem test_subn_A27 : stepWith 0x8127 (regs2 1 5 2 2) r1f = some (0xFD, 0) := by decide
theorem test_subn_A29 : stepWith 0x8F17 (regs2 vf 3 1 5) (readReg vf) = some 1 := by decide
theorem test_shl_A32 : stepWith 0x810E (regs2 1 0x41 vf 1) r1f = some (0x82, 0) := by decide
theorem test_shl_A35 : stepWith 0x8F0E (writeReg vf 0xC1) (readReg vf) = some 2 := by decide
/-- A38: with `kk = 0` the result is 0 whatever the free value is. -/
theorem test_rnd_A38 : (after (step (placed 0x200 0xC100 (writeReg 1 9 State.reset)))).map (readReg 1) =
    some 0 := congrArg some (BitVec.and_zero (x := Config.rnd 0))

/-! ## Address register and memory (vectors 2.5) -/

theorem test_ldI_M1 : stepWith 0xA300 (fun s => s.setI 0xFFFF) (fun t => t.i) = some 0x300 := by decide
theorem test_addI_M3 : stepWith 0xF21E (fun s => writeReg 2 1 (s.setI 0xFFF)) (fun t => (t.i, readReg vf t)) =
    some (0x1000, 0) := by decide
theorem test_addI_M4 : stepWith 0xF21E (fun s => writeReg 2 2 (s.setI 0xFFFF)) (fun t => t.i) = some 1 := by
  decide
theorem test_ldF_M7 : stepWith 0xF029 (writeReg 0 0x1A) (fun t => t.i) = some 0x82 := by decide
theorem test_ldF_M8 : stepWith 0xF029 (writeReg 0 0xFF) (fun t => t.i) = some 0x4FB := by decide
theorem test_ldB_M10 : stepWith 0xF033 (fun s => writeReg 0 0xFF (s.setI 0xFFD))
    (fun t => (memGet t.mem 0xFFD, memGet t.mem 0xFFE, memGet t.mem 0xFFF)) = some (2, 5, 5) := by decide
theorem test_ldB_M11 : stepWith 0xF033 (fun s => writeReg 0 0xFF (s.setI 0xFFE))
    (fun t => (t.err, t.pc, memGet t.mem 0xFFE)) = some (some (.memoryOutOfBounds 0x1000), 0x200, 0) := by
  decide
theorem test_stRegs_M15 : stepWith 0xF255 (fun s => writeReg 2 0x33 (regs2 0 0x11 1 0x22 (s.setI 0x400)))
    (fun t => ([0x400, 0x401, 0x402, 0x403].map (memGet t.mem), t.i)) =
    some ([0x11, 0x22, 0x33, 0], 0x400) := by decide
theorem test_stRegs_M17 : stepWith 0xFF55 (fun s => writeReg 0 9 (s.setI 0xFF1))
    (fun t => (t.err, memGet t.mem 0xFF1)) = some (some (.memoryOutOfBounds 0x1000), 0) := by decide
theorem test_ldRegs_M20 : stepWith 0xF265
    (fun s => writeReg 3 0x77 ((s.setI 0x300).setMem (storeBytes [] 0x300 [2, 5, 4])))
    (fun t => [0, 1, 2, 3].map (fun r => readReg r t)) = some [2, 5, 4, 0x77] := by decide
theorem test_ldRegs_M22 : stepWith 0xF165 (fun s => writeReg 0 9 (s.setI 0xFFF))
    (fun t => (t.err, readReg 0 t)) = some (some (.memoryOutOfBounds 0x1000), 9) := by decide

/-! ## Display (vectors 2.6) -/

/-- The start of G1. -/
def g1Start : State :=
  regs2 1 62 2 31 ((State.reset.setI 0x20E).setMem (storeBytes [] 0x20E [0xC3, 0x81]))

theorem test_drw_G1 : (after (step (placed 0x200 0xD122 g1Start))).map
    (fun t => (([5, 62, 1988, 1989, 2046, 2047].map fun k => t.disp[k]?.getD false),
      (t.disp.toList.filter id).length, readReg vf t)) = some (List.replicate 6 true, 6, 0) := by
  decide +kernel
theorem test_drw_G8 : stepWith 0xDF11
    (fun s => regs2 vf 4 1 2 ((s.setI 0x300).setMem (storeBytes [] 0x300 [0x80])))
    (fun t => (t.disp[132]?, readReg vf t)) = some (some true, 0) := by decide +kernel
theorem test_cls_G13 : stepWith 0x00E0
    (fun s => writeReg vf 1 (s.setDisp (s.disp.setIfInBounds 5 true)))
    (fun t => (t.disp[5]?, readReg vf t)) = some (some false, 1) := by decide +kernel

/-! ## Keypad, timers, fetch, host (vectors 2.7 to 2.9) -/

theorem test_skp_T1 : stepWith 0xE29E (fun s => writeReg 2 7 (setKey 7 true s)) (fun t => t.pc) =
    some 0x204 := by decide
theorem test_skp_T3 : stepWith 0xE29E (fun s => writeReg 2 0x17 (setKey 7 true s)) (fun t => t.err) =
    some (some (.keyIndexOutOfRange 0x17)) := by decide
theorem test_sknp_T4 : stepWith 0xE2A1 (writeReg 2 0x0F) (fun t => t.pc) = some 0x204 := by decide
theorem test_sknp_T5 : stepWith 0xE2A1 (writeReg 2 0x10) (fun t => t.err) =
    some (some (.keyIndexOutOfRange 0x10)) := by decide
theorem test_ldVxK_T6 : stepWith 0xF20A (setKey 5 true) (fun t => (readReg 2 t, t.steps)) =
    some (5, 1) := by decide
theorem test_ldVxK_T8 : stepWith 0xF20A id (fun t => (t.pc, t.steps, t.err)) = some (0x200, 0, none) := by
  decide
theorem test_ldVxDt_T11 : stepWith 0xF107 (fun s => s.setDt 3) (fun t => (readReg 1 t, t.dt)) =
    some (3, 3) := by decide
theorem test_ldDtVx_T12 : stepWith 0xF015 (fun s => writeReg 0 3 ((s.setDt 200).setSt 5))
    (fun t => (t.dt, t.st)) = some (3, 5) := by decide
theorem test_ldStVx_T13 : stepWith 0xF318 (writeReg 3 0x1E) (fun t => (t.dt, t.st)) = some (0, 0x1E) := by
  decide
theorem test_tick_T15 : ((tick (State.reset.setSt 1)).dt, (tick (State.reset.setSt 1)).st) = (0, 0) := by
  decide
theorem test_fetch_E2 : (after (step (State.reset.setPc 0xFFF))).map (fun t => (t.err, t.steps)) =
    some (some (.misalignedFetch 0xFFF), 0) := by decide
theorem test_fetch_E3 : (after (step (State.reset.setPc 0x1000))).map (fun t => t.err) =
    some (some (.memoryOutOfBounds 0x1000)) := by decide
theorem test_fetch_E5 : (after (step (placed 0xFFE 0x1200 State.reset))).map (fun t => (t.pc, t.err)) =
    some (0x200, none) := by decide
theorem test_illegal_E6 : stepWith 0x8128 id (fun t => (t.err, t.pc, t.steps)) =
    some (some (.unrecognizedInstruction 0x8128), 0x200, 0) := by decide
/-- L-2, with the customary font as the font. -/
theorem test_load_L2 : (after (loadWith Config.defaultFont [0x12, 0x00] State.reset)).map
    (fun t => ([0, 0x4B, 0x50, 0x200, 0x201].map (memGet t.mem), t.pc)) =
    some ([0xF0, 0xF0, 0, 0x12, 0], 0x200) := by decide

/-- What a run that has returned `Stopped` left. -/
def stoppedAt : RunEnd → Option State
  | .stopped s => some s
  | .error _ _ => none
  | .unfinished _ => none
  | .noNext => none

/-- S14: one step completes after `quit` is requested past the test. -/
theorem test_run_S14 : (stoppedAt (run [.loop, .event .quit, .loop, .loop] State.reset)).map getSteps =
    some 1 := by decide
/-- Events after the last step, before the test that sees `quit` (10_state.md R41). -/
theorem test_run_eventsAfterLastStep :
    (stoppedAt (run [.loop, .loop, .event .tick, .event .quit, .loop] (State.reset.setDt 5))).map
      (fun t => (t.dt, t.steps)) = some (4, 1) := by decide

/-! ## Witnesses: concrete states and operands that meet each statement's hypotheses -/

theorem test_witness_wellFormed : WellFormed (.drw 1 2 15) ∧ WellFormed (.jp 0xFFF) := by decide
theorem test_witness_decodes : decodeWord 0xD125 = some (.drw 1 2 5) ∧ decodeWord 0x0001 = none := by
  decide
/-- A word of each clause of the table of illegal words. -/
theorem test_witness_illegal : (fieldA 0x0001 = 0 ∧ fieldNnn 0x0001 = 0x001) ∧
    (fieldA 0x5121 = 5 ∧ fieldD 0x5121 ≠ 0) ∧ (fieldA 0x812F = 8 ∧ 8 ≤ (fieldD 0x812F).toNat) ∧
    (fieldA 0x9121 = 9 ∧ fieldD 0x9121 ≠ 0) ∧ (fieldA 0xE19F = 0xE ∧ fieldKk 0xE19F = 0x9F) ∧
    (fieldA 0xF130 = 0xF ∧ fieldKk 0xF130 = 0x30) := by decide
/-- StepRunsDecodedInstruction, at the last address that fetches. -/
theorem test_witness_step : (placed 0xFFE 0x1200 State.reset).err = none ∧
    ((placed 0xFFE 0x1200 State.reset).pc.toNat % 2 = 0 ∧
      (placed 0xFFE 0x1200 State.reset).pc.toNat + 1 < 4096) ∧
    (memGet (placed 0xFFE 0x1200 State.reset).mem 0xFFE = highByte 0x1200 ∧
      memGet (placed 0xFFE 0x1200 State.reset).mem 0xFFF = lowByte 0x1200) ∧
    decodeWord 0x1200 = some (.jp 0x200) := by decide
theorem test_witness_placed : Memory.wf State.reset.mem = true ∧ decodeWord 0x00EE = some .ret := by
  decide
theorem test_witness_oddPc : State.reset.err = none ∧ (State.reset.setPc 0xFFF).pc.toNat % 2 = 1 := by
  decide
theorem test_witness_highPc : (State.reset.setPc 0x1000).pc.toNat % 2 = 0 ∧
    0x1000 ≤ (State.reset.setPc 0x1000).pc.toNat := by decide
theorem test_witness_illegalWord : (placed 0x200 0x8128 State.reset).err = none ∧
    (memGet (placed 0x200 0x8128 State.reset).mem 0x200 = highByte 0x8128 ∧
      memGet (placed 0x200 0x8128 State.reset).mem 0x201 = lowByte 0x8128) ∧
    decodeWord 0x8128 = none := by decide
theorem test_witness_halted : (State.reset.setErr (some .stackOverflow)).err = some .stackOverflow ∧
    transact .tick (State.reset.setErr (some .stackOverflow)) =
      .next (tick (State.reset.setErr (some .stackOverflow))) := ⟨rfl, rfl⟩
theorem test_witness_held : (placed 0x200 0xF20A State.reset).err = none ∧ encode (.ldVxK 2) = 0xF20A ∧
    (memGet (placed 0x200 0xF20A State.reset).mem 0x200 = highByte 0xF20A ∧
      memGet (placed 0x200 0xF20A State.reset).mem 0x201 = lowByte 0xF20A) ∧
    (∀ k < 16, keyLevel k (placed 0x200 0xF20A State.reset) = false) := by decide
theorem test_witness_inv : MachineInv State.reset :=
  ⟨rfl, by decide, by decide, by decide, by decide⟩
theorem test_witness_stepNext : (after (step State.reset)).isSome = true := by decide
theorem test_witness_transaction : transact (.keyDown 15) State.reset = .next (setKey 15 true State.reset) :=
  rfl
theorem test_witness_reachable : ∃ s, Reachable s :=
  ⟨_, .boot 0 [] (State.reset.setMem (storeBytes (storeBytes [] 0 Config.font.toList) 0x200 [])) rfl⟩
/-- ErrorsArePrecise: a step that latches an error (E-1). -/
theorem test_witness_latches : (after (step (State.reset.setPc 0x205))).map (fun t => t.err) =
    some (some (.misalignedFetch 0x205)) := by decide
theorem test_witness_keyWriter : (setKey 15 true State.reset).keys ≠ State.reset.keys ∧
    (requestQuit State.reset).quit ≠ State.reset.quit := by decide
/-- FieldsHaveTheirWriters: for each clause an instruction that changes the field. -/
theorem test_witness_fieldWriters :
    (after (exec (.ldB 0) (writeReg 0 7 State.reset))).map (fun t => decide (t.mem = [])) = some false ∧
    (after (exec (.ldI 1) State.reset)).map (fun t => t.i) = some 1 ∧
    (after (exec (.call 1) State.reset)).map (fun t => (t.sp, stackGet 0 t)) = some (1, 0x202) ∧
    (after (exec (.ldDtVx 0) (writeReg 0 7 State.reset))).map (fun t => t.dt) = some 7 ∧
    (after (exec (.ldStVx 0) (writeReg 0 7 State.reset))).map (fun t => t.st) = some 7 := by decide
/-- The display clause: from a display with a set cell `00E0` changes it. -/
theorem test_witness_displayWriter :
    (after (exec .cls (State.reset.setDisp (State.reset.disp.setIfInBounds 5 true)))).map
      (fun t => t.disp[5]?) = some (some false) := by decide +kernel
theorem test_witness_flagWriter :
    (after (exec (.addReg 1 2) (regs2 1 0x80 2 0x80 State.reset))).map (readReg vf) = some 1 := by decide
/-- Calls at 0 and 15 outstanding, overflow at 16, returns at 1 and 16, underflow at 0, illegal at 17. -/
theorem test_witness_sp : (State.reset.sp.toNat < 16 ∧ (State.reset.setSp 15).sp.toNat < 16) ∧
    (State.reset.setSp 16).sp.toNat = 16 ∧
    (0 < (State.reset.setSp 1).sp.toNat ∧ (State.reset.setSp 1).sp.toNat ≤ 16) ∧
    (0 < (State.reset.setSp 16).sp.toNat ∧ (State.reset.setSp 16).sp.toNat ≤ 16) ∧
    State.reset.sp.toNat = 0 ∧ 16 < (State.reset.setSp 17).sp.toNat := by decide
theorem test_witness_selfJump : (placed 0x200 0x1200 State.reset).err = none ∧
    encode (.jp 0x200) = 0x1200 ∧
    (memGet (placed 0x200 0x1200 State.reset).mem 0x200 = highByte 0x1200 ∧
      memGet (placed 0x200 0x1200 State.reset).mem 0x201 = lowByte 0x1200) ∧
    (0x200 : Addr12).toNat = (placed 0x200 0x1200 State.reset).pc.toNat := by decide
theorem test_witness_keyNumbers : (readReg 2 (writeReg 2 15 State.reset)).toNat < 16 ∧
    16 ≤ (readReg 2 (writeReg 2 16 State.reset)).toNat := by decide
/-- The two clauses of the flag statements: a destination other than 15, and 15 itself. -/
theorem test_witness_flagDestination : (1 : RegIdx) ≠ vf ∧ (0xF : RegIdx) = vf := by decide
/-- The range clauses of the memory instructions, on both sides of the boundary. -/
theorem test_witness_ranges : Memory.wf State.reset.mem = true ∧
    (State.reset.setI 0xFFD).i.toNat + 2 < 4096 ∧ 4096 ≤ (State.reset.setI 0xFFE).i.toNat + 2 ∧
    (State.reset.setI 0xFF0).i.toNat + (15 : RegIdx).toNat < 4096 ∧
    4096 ≤ (State.reset.setI 0xFF1).i.toNat + (15 : RegIdx).toNat := by decide
/-- Draws: 15 rows ending at 0xFFF, 0 rows anywhere, 15 rows past the end. -/
theorem test_witness_draw : WellFormed (.drw 1 1 15) ∧
    (0 < 15 → (State.reset.setI 0xFF1).i.toNat + 15 ≤ 4096) ∧
    (0 < 0 → (State.reset.setI 0xFFFF).i.toNat + 0 ≤ 4096) ∧
    4096 < (State.reset.setI 0xFF2).i.toNat + 15 := by decide
/-- DrawTwiceRestoresDisplay: the two draws of G1 and G2 both answer a next state. -/
theorem test_witness_drawTwice : (1 : RegIdx) ≠ vf ∧ (2 : RegIdx) ≠ vf ∧
    ((after (exec (.drw 1 2 2) g1Start)).bind (fun t => after (exec (.drw 1 2 2) t))).map (readReg vf) =
      some 1 := by decide +kernel
theorem test_witness_keyDown : keyLevel 5 (setKey 5 true State.reset) = true ∧
    ∀ j < 16, keyLevel j (setKey 5 true State.reset) = true → j = 5 := by decide
theorem test_witness_rom : ([] : List Byte).length ≤ 3584 ∧ (List.replicate 3584 (0 : Byte)).length ≤ 3584 ∧
    3584 < (List.replicate 3585 (0 : Byte)).length :=
  ⟨by rw [List.length_nil]; decide, by rw [List.length_replicate], by rw [List.length_replicate]; decide⟩
/-- RunStopsAfterAtMostOneStep: `quit` set; a `quit` before a step or after it; a step that latches an error; a
hold with `quit` requested. -/
theorem test_witness_run : (requestQuit State.reset).quit = true ∧ State.reset.quit = false ∧
    EnvEvent.quit ∈ [EnvEvent.quit] ++ [] ∧ EnvEvent.quit ∈ [] ++ [EnvEvent.quit] ∧
    held (applyEvents State.reset [.quit]) = false ∧
    (after (step (applyEvents State.reset [.quit]))).isSome = true ∧
    held (State.reset.setPc 0x205) = false ∧ EnvEvent.quit ∉ [EnvEvent.tick] ++ [.keyUp 3] ∧
    (after (step (State.reset.setPc 0x205))).map (fun t => t.err) = some (some (.misalignedFetch 0x205)) ∧
    held (applyEvents (placed 0x200 0xF20A State.reset) [.tick, .quit]) = true := by decide
/-- PlacedWordRunsNext where no fetch could succeed: an odd `pc` and a latched error. -/
theorem test_witness_placedUnfetchable :
    Memory.wf ((State.reset.setPc 0x201).setErr (some .stackOverflow)).mem = true ∧
    (((State.reset.setPc 0x201).setErr (some .stackOverflow)).withFetchWord 16 0x1208).pc = 0x200 ∧
    (after (step (((State.reset.setPc 0x201).setErr (some .stackOverflow)).withFetchWord 16 0x1208))).map
      (fun t => (t.pc, t.err)) = some (0x208, none) := by decide

end Sys2Proof.Tests
end

section
/-! SUPPORT. Frames: a state is within every frame of itself, and each update keeps the frames that allow it. -/

namespace Sys2Proof.Safety

open Sys2Proof.Machine

section
variable {w : Writes} {s t : State}

theorem Frame.refl (w : Writes) (s : State) : Frame w s s :=
  ⟨fun _ _ => rfl, fun _ => rfl, fun _ => rfl, fun _ _ _ => rfl, fun _ => rfl, fun _ => rfl, fun _ => rfl,
    fun _ => rfl, fun _ _ => rfl, rfl, rfl, rfl⟩

theorem Frame.setPc (h : Frame w s t) (a : Word) : Frame w s (t.setPc a) :=
  ⟨h.regs, h.i, h.sp, h.stack, h.dt, h.st, h.disp, h.draws, h.mem, h.keys, h.quit, h.err⟩

theorem Frame.setSteps (h : Frame w s t) (n : Nat) : Frame w s (t.setSteps n) :=
  ⟨h.regs, h.i, h.sp, h.stack, h.dt, h.st, h.disp, h.draws, h.mem, h.keys, h.quit, h.err⟩

theorem Frame.setSp (h : Frame w s t) (hw : w.sp) (b : Byte) : Frame w s (t.setSp b) :=
  ⟨h.regs, h.i, fun hn => absurd hw hn, h.stack, h.dt, h.st, h.disp, h.draws, h.mem, h.keys, h.quit, h.err⟩

theorem Frame.advance (h : Frame w s t) : Frame w s (advance t) := h.setPc _

end

end Sys2Proof.Safety
end

section
/-! SUPPORT. What `0000`, `1nnn` and `00EE` answer (40_control_flow.md R101 to R103). -/

namespace Sys2Proof.Machine

variable (s : State)

theorem exec_nop : exec .nop s = .next ((advance s).setSteps (s.steps + 1)) := rfl

theorem exec_jp (nnn : Addr12) :
    exec (.jp nnn) s = .next (((advance s).setPc (zext12 nnn)).setSteps (s.steps + 1)) := rfl

/-- Within a stack that is not empty, the pop does not wrap below 0. -/
theorem sp_pred_toNat (h : 0 < s.sp.toNat) : (s.sp - 1).toNat = s.sp.toNat - 1 :=
  BitVec.toNat_sub_of_le (BitVec.le_def.2 h)

theorem exec_ret_underflow (h : s.sp.toNat = 0) : exec .ret s = .next (s.setErr (some .stackUnderflow)) := by
  have hsp : s.sp = 0#8 := BitVec.eq_of_toNat_eq h
  simp only [exec, execRet, hsp, if_true, raise_eq]

/-- `00EE` with a call outstanding: the state after the fetch, the pop and the jump to the popped entry. -/
theorem exec_ret_pop (hpos : 0 < s.sp.toNat) (hle : s.sp.toNat ≤ 16) :
    exec .ret s = .next ((((advance s).setSp (s.sp - 1)).setPc (stackGet (s.sp.toNat - 1) s)).setSteps
      (s.steps + 1)) := by
  have hne : s.sp ≠ 0#8 := fun h => by simp [h] at hpos
  have hdepth : ¬ Config.stackDepth < s.sp.toNat := Nat.not_lt.2 hle
  simp only [exec, execRet, if_neg hne, if_neg hdepth, retire_eq, setSp_sp, setPc_steps, setSp_steps,
    advance_sp, advance_steps, stackGet_setSp, stackGet_advance, sp_pred_toNat s hpos]

end Sys2Proof.Machine
end

section
/-! SUPPORT. The statements about `0000`, `1nnn` and `00EE` (40_control_flow.md). -/

namespace Sys2Proof

open Sys2Proof.Machine Sys2Proof.Safety

/-- Settles O23: the step is the fetch's advance and the step count. -/
theorem nopOnlyAdvances : Obligations.NopOnlyAdvances := by
  intro s
  refine ⟨_, exec_nop s, ⟨?pc, ?steps⟩, ?frame⟩
  case pc => simp
  case steps => simp
  case frame => exact (Frame.refl _ s).advance.setSteps _

/-- Settles O24: the target replaces the advanced `pc`, and its 12 bits lose nothing in 16. -/
theorem jpWritesTarget : Obligations.JpWritesTarget := by
  intro nnn s
  refine ⟨_, exec_jp s nnn, ?pc, ?steps, ?frame⟩
  case pc => simp [zext12_toNat]
  case steps => simp
  case frame => exact ((Frame.refl _ s).advance.setPc _).setSteps _

/-- Settles O28: by the two outcomes of `00EE` with `sp` at most 16, the pop and the underflow. -/
theorem retPopsReturnAddress : Obligations.RetPopsReturnAddress := by
  intro s
  refine ⟨fun hpos hle => ⟨_, exec_ret_pop s hpos hle, ?sp, ?pc, ?steps, ?frame⟩, exec_ret_underflow s⟩
  case sp =>
    have hsp := sp_pred_toNat s hpos
    simp only [setSteps_sp, setPc_sp, setSp_sp]
    omega
  case pc => simp
  case steps => simp
  case frame => exact (((Frame.refl _ s).advance.setSp trivial _).setPc _).setSteps _

end Sys2Proof
end

section
/-! SUPPORT. What every completed skip answers, whatever its condition (41_skips.md R110), and the conditions of
`3xkk`, `4xkk`, `5xy0` and `9xy0` (R111 to R114). -/

namespace Sys2Proof.Safety

open Sys2Proof.Machine

theorem Frame.skipIf {w : Writes} {s t : State} (h : Frame w s t) (c : Bool) : Frame w s (skipIf c t) := by
  cases c with
  | false => exact h
  | true => exact h.advance

end Sys2Proof.Safety

namespace Sys2Proof.Machine

open Sys2Proof.Safety

/-- The fetch's 2 and a taken skip's 2 are the 4 of R110, as 16-bit values too. -/
theorem skipsWhen_skipIf_advance {P : Prop} {c : Bool} (hc : c = true ↔ P) (s : State) :
    SkipsWhen P s ((skipIf c (advance s)).setSteps (s.steps + 1)) := by
  refine ⟨fun hP => ?taken, fun hP => ?notTaken, rfl⟩
  case taken =>
    have hpc : s.pc + 2 + 2 = s.pc + 4 := BitVec.add_assoc s.pc 2 2
    simpa [skipIf_pc, hc.2 hP] using hpc
  case notTaken =>
    have hfalse : c = false := Bool.eq_false_iff.2 (mt hc.1 hP)
    simp [skipIf_pc, hfalse]

/-- A step that ends in a skip on `c`: it completes, skips when the proposition that `c` decides holds, and changes
nothing else. -/
theorem retire_skipIf_advance {P : Prop} {c : Bool} (hc : c = true ↔ P) (s : State) :
    ∃ t, retire (skipIf c (advance s)) = .next t ∧ SkipsWhen P s t ∧ Frame {} s t := by
  refine ⟨(skipIf c (advance s)).setSteps (s.steps + 1), ?answer, skipsWhen_skipIf_advance hc s, ?frame⟩
  case answer => simp [retire_eq]
  case frame => exact ((Frame.refl _ s).advance.skipIf c).setSteps _

theorem exec_seImm (x : RegIdx) (kk : Byte) (s : State) :
    exec (.seImm x kk) s = retire (skipIf (readReg x s == kk) (advance s)) := rfl

theorem exec_sneImm (x : RegIdx) (kk : Byte) (s : State) :
    exec (.sneImm x kk) s = retire (skipIf (readReg x s != kk) (advance s)) := rfl

theorem exec_seReg (x y : RegIdx) (s : State) :
    exec (.seReg x y) s = retire (skipIf (readReg x s == readReg y s) (advance s)) := rfl

theorem exec_sneReg (x y : RegIdx) (s : State) :
    exec (.sneReg x y) s = retire (skipIf (readReg x s != readReg y s) (advance s)) := rfl

end Sys2Proof.Machine
end

section
/-! SUPPORT. The statements about `3xkk`, `4xkk`, `5xy0` and `9xy0` (41_skips.md). -/

namespace Sys2Proof

open Sys2Proof.Machine Sys2Proof.Safety

/-- Settles O32: each is a completed skip on a comparison of `V[x]` with the immediate. -/
theorem skipsOnImmediate : Obligations.SkipsOnImmediate := by
  intro x kk s
  rw [exec_seImm, exec_sneImm]
  exact ⟨retire_skipIf_advance beq_iff_eq s, retire_skipIf_advance bne_iff_ne s⟩

/-- Settles O33: each is a completed skip on a comparison of `V[x]` with `V[y]`. -/
theorem skipsOnRegisters : Obligations.SkipsOnRegisters := by
  intro x y s
  rw [exec_seReg, exec_sneReg]
  exact ⟨retire_skipIf_advance beq_iff_eq s, retire_skipIf_advance bne_iff_ne s⟩

end Sys2Proof
end

section
/-! SUPPORT. What the register instructions of 42_alu.md answer: a step that ends in one register write, a step
that also writes the flag, and the bytes written, as numbers. -/

namespace Sys2Proof.Safety

open Sys2Proof.Machine

theorem Frame.writeReg {w : Writes} {s t : State} {x : RegIdx} (h : Frame w s t) (hx : w.regs x) (b : Byte) :
    Frame w s (writeReg x b t) := by
  refine ⟨fun r hr => ?regs, h.i, h.sp, h.stack, h.dt, h.st, h.disp, h.draws, h.mem, h.keys, h.quit, h.err⟩
  have hne : r ≠ x := fun hrx => hr (hrx ▸ hx)
  rw [readReg_writeReg, if_neg hne, h.regs r hr]

end Sys2Proof.Safety

namespace Sys2Proof.Machine

open Sys2Proof.Safety

/-- A step that ends in one register write: it completes with the byte in `V[x]` and changes nothing else. -/
theorem retire_writeReg_advance (x : RegIdx) (b : Byte) (s : State) :
    ∃ t, retire (writeReg x b (advance s)) = .next t ∧ readReg x t = b ∧ FallsThrough s t ∧
      Frame { regs := fun r => r = x } s t := by
  refine ⟨_, retire_eq _, ?value, ⟨?pc, ?steps⟩, ?frame⟩
  case value => simp
  case pc => simp
  case steps => simp
  case frame => exact ((Frame.refl _ s).advance.writeReg rfl b).setSteps _

/-- The same write, of a byte given bit by bit. -/
theorem retire_writeReg_advance_bits (x : RegIdx) {b : Byte} {bit : Nat → Bool}
    (hb : ∀ k, b.getLsbD k = bit k) (s : State) :
    ∃ t, retire (writeReg x b (advance s)) = .next t ∧ FallsThrough s t ∧
      Frame { regs := fun r => r = x } s t ∧ ∀ k < 8, (readReg x t).getLsbD k = bit k := by
  obtain ⟨t, ht, hvalue, hfall, hframe⟩ := retire_writeReg_advance x b s
  exact ⟨t, ht, hfall, hframe, fun k _ => hvalue ▸ hb k⟩

/-- A step that ends in a register write and then the flag's: the flag is what `V[15]` holds even where it is the
destination too, since it is written second (10_state.md R27). -/
theorem retire_writeReg_vf_advance (x : RegIdx) (f b : Byte) (s : State) :
    ∃ t, retire (writeReg vf f (writeReg x b (advance s))) = .next t ∧ (x ≠ vf → readReg x t = b) ∧
      readReg vf t = f ∧ FallsThrough s t ∧ Frame { regs := fun r => r = x ∨ r = vf } s t := by
  refine ⟨_, retire_eq _, fun hx => ?value, ?flag, ⟨?pc, ?steps⟩, ?frame⟩
  case value => simp [hx]
  case flag => simp
  case pc => simp
  case steps => simp
  case frame =>
    exact (((Frame.refl _ s).advance.writeReg (Or.inl rfl) b).writeReg (Or.inr rfl) f).setSteps _

theorem carryFlag_toNat (a b : Byte) :
    (carryFlag a b).toNat = if 255 < a.toNat + b.toNat then 1 else 0 := by
  simp [carryFlag, flagByte_toNat]

theorem noBorrowFlag_toNat (a b : Byte) :
    (noBorrowFlag a b).toNat = if a.toNat < b.toNat then 0 else 1 := by
  by_cases h : a.toNat < b.toNat
  · simp [noBorrowFlag, flagByte_toNat, h]
  · simp [noBorrowFlag, flagByte_toNat, h, Nat.not_lt.1 h]

/-- The wrapped difference of two bytes, 256 being added before the subtraction. -/
theorem byte_sub_toNat (a b : Byte) : (a - b).toNat = (a.toNat + 256 - b.toNat) % 256 := by
  have hb : b.toNat < 256 := b.isLt
  rw [BitVec.toNat_sub]
  omega

/-- A step that writes a difference and then its flag, as `8xy5` and `8xy7` do: the wrapped difference in `V[x]`,
unless the flag replaces it, and no borrow in `V[15]`. -/
theorem retire_writeReg_noBorrow (x : RegIdx) (a b : Byte) (s : State) :
    ∃ t, retire (writeReg vf (noBorrowFlag a b) (writeReg x (a - b) (advance s))) = .next t ∧
      (x ≠ vf → (readReg x t).toNat = (a.toNat + 256 - b.toNat) % 256) ∧
      (readReg vf t).toNat = (if a.toNat < b.toNat then 0 else 1) ∧
      FallsThrough s t ∧ Frame { regs := fun r => r = x ∨ r = vf } s t := by
  obtain ⟨t, ht, hvalue, hflag, hrest⟩ := retire_writeReg_vf_advance x (noBorrowFlag a b) (a - b) s
  refine ⟨t, ht, fun hx => ?difference, ?noBorrow, hrest⟩
  case difference => rw [hvalue hx, byte_sub_toNat]
  case noBorrow => rw [hflag, noBorrowFlag_toNat]

variable (x y : RegIdx) (kk : Byte) (s : State)

theorem exec_ldImm : exec (.ldImm x kk) s = retire (writeReg x kk (advance s)) := rfl

theorem exec_ldReg : exec (.ldReg x y) s = retire (writeReg x (readReg y s) (advance s)) := rfl

theorem exec_addImm : exec (.addImm x kk) s = retire (writeReg x (readReg x s + kk) (advance s)) := rfl

theorem exec_orReg :
    exec (.orReg x y) s = retire (writeReg x (readReg x s ||| readReg y s) (advance s)) := rfl

theorem exec_andReg :
    exec (.andReg x y) s = retire (writeReg x (readReg x s &&& readReg y s) (advance s)) := rfl

theorem exec_xorReg :
    exec (.xorReg x y) s = retire (writeReg x (readReg x s ^^^ readReg y s) (advance s)) := rfl

theorem exec_addReg :
    exec (.addReg x y) s = retire (writeReg vf (carryFlag (readReg x s) (readReg y s))
      (writeReg x (readReg x s + readReg y s) (advance s))) := rfl

theorem exec_sub :
    exec (.sub x y) s = retire (writeReg vf (noBorrowFlag (readReg x s) (readReg y s))
      (writeReg x (readReg x s - readReg y s) (advance s))) := rfl

theorem exec_subn :
    exec (.subn x y) s = retire (writeReg vf (noBorrowFlag (readReg y s) (readReg x s))
      (writeReg x (readReg y s - readReg x s) (advance s))) := rfl

end Sys2Proof.Machine
end

section
/-! SUPPORT. The statements about the loads, the arithmetic and the logic of 42_alu.md. -/

namespace Sys2Proof

open Sys2Proof.Machine Sys2Proof.Safety

/-- Settles O35: each is one register write, of `kk` and of `V[y]`. -/
theorem loadsCopyIntoRegister : Obligations.LoadsCopyIntoRegister := by
  intro x y kk s
  rw [exec_ldImm, exec_ldReg]
  exact ⟨retire_writeReg_advance x kk s, retire_writeReg_advance x (readReg y s) s⟩

/-- Settles O36: one register write, of a sum of bytes. -/
theorem addImmWrapsWithoutFlag : Obligations.AddImmWrapsWithoutFlag := by
  intro x kk s
  rw [exec_addImm]
  obtain ⟨t, ht, hvalue, hrest⟩ := retire_writeReg_advance x (readReg x s + kk) s
  refine ⟨t, ht, ?sum, hrest⟩
  case sum => rw [hvalue, BitVec.toNat_add]

/-- Settles O37: each is one register write, of a byte whose bits the library's lemmas on `|||`, `&&&` and `^^^`
give. -/
theorem logicIsBitwiseWithoutFlag : Obligations.LogicIsBitwiseWithoutFlag := by
  intro x y s
  rw [exec_orReg, exec_andReg, exec_xorReg]
  exact ⟨retire_writeReg_advance_bits x (fun _ => BitVec.getLsbD_or) s,
    retire_writeReg_advance_bits x (fun _ => BitVec.getLsbD_and) s,
    retire_writeReg_advance_bits x (fun _ => BitVec.getLsbD_xor) s⟩

/-- Settles O38: the sum, then the carry of the operands as they were. -/
theorem addSetsCarry : Obligations.AddSetsCarry := by
  intro x y s
  rw [exec_addReg]
  obtain ⟨t, ht, hvalue, hflag, hrest⟩ := retire_writeReg_vf_advance x
    (carryFlag (readReg x s) (readReg y s)) (readReg x s + readReg y s) s
  refine ⟨t, ht, fun hx => ?sum, ?carry, hrest⟩
  case sum => rw [hvalue hx, BitVec.toNat_add]
  case carry => rw [hflag, carryFlag_toNat]

/-- Settles O39: the step subtracts `V[y]` from `V[x]`. -/
theorem subSetsNoBorrow : Obligations.SubSetsNoBorrow := by
  intro x y s
  rw [exec_sub]
  exact retire_writeReg_noBorrow x (readReg x s) (readReg y s) s

/-- Settles O40: the step subtracts `V[x]` from `V[y]`. -/
theorem subnSetsNoBorrow : Obligations.SubnSetsNoBorrow := by
  intro x y s
  rw [exec_subn]
  exact retire_writeReg_noBorrow x (readReg y s) (readReg x s) s

end Sys2Proof
end

section
/-! SUPPORT. What the instructions of 43_index_memory.md answer: a step that ends in a write of `I`, the range check
that comes before the effect (20_memory.md R54), a step that ends in a run of stored bytes, and one that ends in a
load of registers. -/

namespace Sys2Proof.Safety

open Sys2Proof.Machine

section
variable {w : Writes} {s t : State}

theorem Frame.setI (h : Frame w s t) (hw : w.i) (a : Word) : Frame w s (t.setI a) :=
  ⟨h.regs, fun hn => absurd hw hn, h.sp, h.stack, h.dt, h.st, h.disp, h.draws, h.mem, h.keys, h.quit, h.err⟩

theorem Frame.setMem (h : Frame w s t) {m : Memory} (hm : ∀ a, ¬ w.mem a → memGet m a = memGet s.mem a) :
    Frame w s (t.setMem m) :=
  ⟨h.regs, h.i, h.sp, h.stack, h.dt, h.st, h.disp, h.draws, hm, h.keys, h.quit, h.err⟩

theorem Frame.setV (h : Frame w s t) {v : Vector Byte Config.nReg}
    (hv : ∀ r, ¬ w.regs r → readReg r (t.setV v) = readReg r s) : Frame w s (t.setV v) :=
  ⟨hv, h.i, h.sp, h.stack, h.dt, h.st, h.disp, h.draws, h.mem, h.keys, h.quit, h.err⟩

end

end Sys2Proof.Safety

namespace Sys2Proof.Machine

open Sys2Proof.Safety

/-- A step that ends in a write of `I`: it completes with the address in `I` and changes nothing else. -/
theorem retire_setI_advance (a : Word) (s : State) :
    ∃ t, retire ((advance s).setI a) = .next t ∧ t.i = a ∧ FallsThrough s t ∧ Frame { i := True } s t := by
  refine ⟨_, retire_eq _, ?value, ⟨?pc, ?steps⟩, ?frame⟩
  case value => simp
  case pc => simp
  case steps => simp
  case frame => exact ((Frame.refl _ s).advance.setI trivial a).setSteps _

/-- A step that checks its whole range of `count` bytes from `base` before it has its effect (20_memory.md R54). -/
def afterRangeCheck (base count : Nat) (effect : Host.Outcome State Fault Refusal) (s : State) :
    Host.Outcome State Fault Refusal :=
  match rangeError base count with
  | some e => raise e s
  | none => effect

theorem afterRangeCheck_inside {base count : Nat} (effect : Host.Outcome State Fault Refusal) (s : State)
    (h : 0 < count → base + count ≤ 4096) : afterRangeCheck base count effect s = effect := by
  simp only [afterRangeCheck, (rangeError_eq_none base count).2 h]

theorem afterRangeCheck_outside {base count : Nat} (effect : Host.Outcome State Fault Refusal) (s : State)
    (hpos : 0 < count) (h : 4096 < base + count) :
    afterRangeCheck base count effect s = .next (s.setErr (some (.memoryOutOfBounds (max base 4096)))) := by
  simp only [afterRangeCheck, (rangeError_eq_some base count _).2 ⟨hpos, h, rfl⟩, raise_eq]

/-- A step that ends in a run of `n` bytes stored from `I` on, inside memory: byte `k` of the run is at `I + k`, and
nothing else changes. -/
theorem retire_storeBytes_advance {bs : List Byte} {n : Nat} {s : State} (hwf : Memory.wf s.mem = true)
    (hlen : bs.length = n) (hend : s.i.toNat + n ≤ 4096) :
    ∃ t, retire ((advance s).setMem (storeBytes s.mem (baseAddr s) bs)) = .next t ∧
      (∀ k < n, memGet t.mem (s.i.toNat + k) = bs[k]?.getD 0) ∧ FallsThrough s t ∧
      Frame { mem := fun a => baseAddr s ≤ a ∧ a < baseAddr s + n } s t := by
  subst hlen
  have hread := memGet_storeBytes bs s.mem hwf (baseAddr s) hend
  refine ⟨_, retire_eq _, fun k hk => ?stored, ⟨?pc, ?steps⟩, ?frame⟩
  case stored =>
    have hin : baseAddr s ≤ baseAddr s + k ∧ baseAddr s + k < baseAddr s + bs.length := by omega
    simpa [baseAddr] using (hread (baseAddr s + k)).trans (if_pos hin)
  case pc => simp
  case steps => simp
  case frame =>
    exact ((Frame.refl _ s).advance.setMem fun a ha => (hread a).trans (if_neg ha)).setSteps _

theorem readReg_setV_advance (r : RegIdx) (v : Vector Byte Config.nReg) (s : State) :
    readReg r ((advance s).setV v) = readReg r (s.setV v) := rfl

/-- A step that ends in a load of `V[0]` to `V[x]` from `I` on: byte `I + k` is in `V[k]`, and nothing else changes. -/
theorem retire_loadedRegs_advance (x : RegIdx) (s : State) :
    ∃ t, retire ((advance s).setV (loadedRegs x (baseAddr s) s)) = .next t ∧
      (∀ r : RegIdx, r.toNat ≤ x.toNat → readReg r t = memGet s.mem (s.i.toNat + r.toNat)) ∧
      FallsThrough s t ∧ Frame { regs := fun r => r.toNat ≤ x.toNat } s t := by
  have hread : ∀ r, readReg r ((advance s).setV (loadedRegs x (baseAddr s) s)) =
      if r.toNat ≤ x.toNat then memGet s.mem (baseAddr s + r.toNat) else readReg r s := fun r => by
    rw [readReg_setV_advance, readReg_loadedRegs]
  refine ⟨_, retire_eq _, fun r hr => ?loaded, ⟨?pc, ?steps⟩, ?frame⟩
  case loaded => exact (hread r).trans (if_pos hr)
  case pc => simp
  case steps => simp
  case frame =>
    exact ((Frame.refl _ s).advance.setV fun r hr => (hread r).trans (if_neg hr)).setSteps _

/-- The digits of `Fx33` as numbers: each is below 10, so no byte wraps. -/
theorem bcdDigits_toNat (b : Byte) :
    ((bcdDigits b)[0]?.getD 0).toNat = b.toNat / 100 ∧
      ((bcdDigits b)[1]?.getD 0).toNat = b.toNat / 10 % 10 ∧
      ((bcdDigits b)[2]?.getD 0).toNat = b.toNat % 10 := by
  have hb : b.toNat < 256 := b.isLt
  refine ⟨?hundreds, ?tens, ?ones⟩ <;> simp [bcdDigits] <;> omega

variable (x : RegIdx) (s : State)

theorem exec_ldI (nnn : Addr12) : exec (.ldI nnn) s = retire ((advance s).setI (zext12 nnn)) := rfl

theorem exec_ldB :
    exec (.ldB x) s = afterRangeCheck s.i.toNat 3
      (retire ((advance s).setMem (storeBytes s.mem (baseAddr s) (bcdDigits (readReg x s))))) s := rfl

theorem exec_stRegs :
    exec (.stRegs x) s = afterRangeCheck s.i.toNat (x.toNat + 1)
      (retire ((advance s).setMem (storeBytes s.mem (baseAddr s) (regBytes x s)))) s := rfl

theorem exec_ldRegs :
    exec (.ldRegs x) s = afterRangeCheck s.i.toNat (x.toNat + 1)
      (retire ((advance s).setV (loadedRegs x (baseAddr s) s))) s := rfl

end Sys2Proof.Machine
end

section
/-! SUPPORT. The statements about `Annn`, `Fx33`, `Fx55` and `Fx65` (43_index_memory.md). -/

namespace Sys2Proof

open Sys2Proof.Machine Sys2Proof.Safety

/-- Settles O44: the step writes `I`, and the 12 bits of `nnn` lose nothing in 16. -/
theorem ldIWritesAddress : Obligations.LdIWritesAddress := by
  intro nnn s
  rw [exec_ldI]
  obtain ⟨t, ht, hvalue, hrest⟩ := retire_setI_advance (zext12 nnn) s
  refine ⟨t, ht, ?address, hrest⟩
  case address => rw [hvalue, zext12_toNat]

/-- Settles O46: past the range check the step stores a run of three bytes, the digits. -/
theorem bcdStoresDigits : Obligations.BcdStoresDigits := by
  intro x s hwf
  rw [exec_ldB]
  refine ⟨fun hin => ?inside, fun hout => afterRangeCheck_outside _ s (by omega) (by omega)⟩
  case inside =>
    rw [afterRangeCheck_inside _ s (fun _ => by omega)]
    obtain ⟨t, ht, hstored, hrest⟩ :=
      retire_storeBytes_advance (bs := bcdDigits (readReg x s)) (n := 3) hwf rfl (by omega)
    obtain ⟨hhundreds, htens, hones⟩ := bcdDigits_toNat (readReg x s)
    refine ⟨t, ht, ?hundreds, ?tens, ?ones, hrest⟩
    case hundreds => rw [← hhundreds, ← hstored 0 (by omega), Nat.add_zero]
    case tens => rw [← htens, ← hstored 1 (by omega)]
    case ones => rw [← hones, ← hstored 2 (by omega)]

/-- Settles O47: past the range check the step stores a run of `x + 1` bytes, of which byte `k` is `V[k]`. -/
theorem storeRegistersToMemory : Obligations.StoreRegistersToMemory := by
  intro x s hwf
  rw [exec_stRegs]
  refine ⟨fun hin => ?inside, fun hout => afterRangeCheck_outside _ s (by omega) (by omega)⟩
  case inside =>
    rw [afterRangeCheck_inside _ s (fun _ => by omega)]
    obtain ⟨t, ht, hstored, hrest⟩ :=
      retire_storeBytes_advance hwf (regBytes_length s x) (by omega)
    refine ⟨t, ht, fun r hr => ?stored, hrest⟩
    case stored => rw [hstored r.toNat (by omega), regBytes_getD s x r hr]

/-- Settles O48: past the range check the step loads the registers up to `x` and keeps the others. -/
theorem loadRegistersFromMemory : Obligations.LoadRegistersFromMemory := by
  intro x s
  rw [exec_ldRegs]
  refine ⟨fun hin => ?inside, fun hout => afterRangeCheck_outside _ s (by omega) (by omega)⟩
  case inside =>
    rw [afterRangeCheck_inside _ s (fun _ => by omega)]
    exact retire_loadedRegs_advance x s

end Sys2Proof
end

section
/-! SUPPORT. What the display instructions of 44_display.md answer: a cleared display read back, a whole draw in the
terms of `SpriteCovers`, the collision flag, and a step that ends in a write of the display. -/

namespace Sys2Proof.Safety

open Sys2Proof.Machine

theorem Frame.setDisp {w : Writes} {s t : State} (h : Frame w s t) (hw : w.disp) (d : Display) :
    Frame w s (t.setDisp d) :=
  ⟨h.regs, h.i, h.sp, h.stack, h.dt, h.st, fun hn => absurd hw hn, h.draws, h.mem, h.keys, h.quit, h.err⟩

end Sys2Proof.Safety

namespace Sys2Proof.Machine

open Sys2Proof.Safety

theorem pixel_replicate_false (cx cy : Nat) : pixel (Vector.replicate Config.dispCells false) cx cy = false := by
  unfold pixel
  rw [Vector.getElem?_replicate]
  split <;> rfl

section
variable (m : Memory) (base vx vy n : Nat)

/-- No cell is drawn twice in one draw (44_display.md R175 (a)): 8 columns are fewer than 64, and up to 32 rows are
no more than 32. -/
theorem drawSteps_pos_nodup (hn : n ≤ 32) : ((drawSteps m base vx vy n).map drawPos).Nodup := by
  unfold drawSteps
  rw [List.map_flatMap, List.nodup_flatMap]
  refine ⟨fun row _ => ?columns, List.nodup_range.pairwise_of_forall_ne ?rows⟩
  case columns =>
    rw [List.map_map]
    refine List.nodup_range.map_on fun c hc c' hc' heq => ?_
    have hcol := congrArg Prod.fst heq
    simp only [Function.comp_apply, drawPos, List.mem_range] at hcol hc hc'
    omega
  case rows =>
    intro r hr r' hr' hne p hp hp'
    simp only [List.mem_map, List.mem_range] at hr hr' hp hp'
    obtain ⟨_, ⟨c, -, rfl⟩, rfl⟩ := hp
    obtain ⟨_, ⟨c', -, rfl⟩, heq⟩ := hp'
    have hrow := congrArg Prod.snd heq
    simp only [drawPos] at hrow
    omega

/-- The steps of a draw whose sprite bit is set stand on the pixels that the sprite covers. -/
theorem spriteCovers_iff_drawSteps (cx cy : Nat) :
    SpriteCovers m base vx vy n cx cy ↔
      ∃ p ∈ drawSteps m base vx vy n, p.2.2 = true ∧ drawPos p = (cx, cy) := by
  constructor
  · rintro ⟨row, hrow, col, hcol, hbit, rfl, rfl⟩
    exact ⟨_, (mem_drawSteps m base vx vy n _).2 ⟨row, hrow, col, hcol, rfl⟩, hbit, rfl⟩
  · rintro ⟨p, hp, hbit, hpos⟩
    obtain ⟨row, hrow, col, hcol, rfl⟩ := (mem_drawSteps m base vx vy n p).1 hp
    obtain ⟨hx, hy⟩ := Prod.mk.inj hpos
    exact ⟨row, hrow, col, hcol, hbit, hx.symm, hy.symm⟩

variable {n} (hn : n ≤ 32) (d : Display)
include hn

/-- A draw flips the pixels that the sprite covers and keeps the others. -/
theorem pixel_drawSprite {cx cy : Nat} (hx : cx < 64) (hy : cy < 32) :
    (SpriteCovers m base vx vy n cx cy →
      pixel (drawSprite m base vx vy n d).1 cx cy = !pixel d cx cy) ∧
    (¬ SpriteCovers m base vx vy n cx cy →
      pixel (drawSprite m base vx vy n d).1 cx cy = pixel d cx cy) := by
  rw [drawSprite_eq_foldl, pixel_foldl_drawStep _ (drawSteps_pos_nodup m base vx vy n hn) _ _ _ hx hy,
    spriteCovers_iff_drawSteps]
  refine ⟨fun hcovers => ?flipped, fun hcovers => ?kept⟩
  case flipped => rw [decide_eq_true hcovers, Bool.xor_true]
  case kept => rw [decide_eq_false hcovers, Bool.xor_false]

/-- A draw collides exactly when the sprite covers a pixel that was set before it (44_display.md R174). -/
theorem drawSprite_collision_iff :
    (drawSprite m base vx vy n d).2 = true ↔
      ∃ cx < 64, ∃ cy < 32, pixel d cx cy = true ∧ SpriteCovers m base vx vy n cx cy := by
  rw [drawSprite_eq_foldl, foldl_drawStep_collision _ (drawSteps_pos_nodup m base vx vy n hn)]
  constructor
  · rintro (hfalse | ⟨p, hp, hbit, hset⟩)
    · exact absurd hfalse Bool.false_ne_true
    · exact ⟨(drawPos p).1, Nat.mod_lt _ (by decide), (drawPos p).2, Nat.mod_lt _ (by decide), hset,
        (spriteCovers_iff_drawSteps m base vx vy n _ _).2 ⟨p, hp, hbit, rfl⟩⟩
  · rintro ⟨cx, -, cy, -, hset, hcovers⟩
    obtain ⟨p, hp, hbit, hpos⟩ := (spriteCovers_iff_drawSteps m base vx vy n cx cy).1 hcovers
    exact .inr ⟨p, hp, hbit, by rw [hpos]; exact hset⟩

end

theorem collisionFlag_eq_one_or_zero (c : Bool) : collisionFlag c = 1 ∨ collisionFlag c = 0 := by
  cases c with
  | true => exact .inl rfl
  | false => exact .inr rfl

theorem collisionFlag_eq_one_iff (c : Bool) : collisionFlag c = 1 ↔ c = true := by
  cases c <;> decide

/-- A step that ends in a write of the display: it completes with that display and changes nothing else. -/
theorem retire_setDisp_advance (d : Display) (s : State) :
    ∃ t, retire ((advance s).setDisp d) = .next t ∧ t.disp = d ∧ FallsThrough s t ∧
      Frame { disp := True } s t := by
  refine ⟨_, retire_eq _, ?display, ⟨?pc, ?steps⟩, ?frame⟩
  case display => simp
  case pc => simp
  case steps => simp
  case frame => exact ((Frame.refl _ s).advance.setDisp trivial d).setSteps _

/-- A step that ends in a write of the display and then the flag's: it completes with both and changes nothing else. -/
theorem retire_writeReg_vf_setDisp_advance (f : Byte) (d : Display) (s : State) :
    ∃ t, retire (writeReg vf f ((advance s).setDisp d)) = .next t ∧ t.disp = d ∧ readReg vf t = f ∧
      FallsThrough s t ∧ Frame { regs := fun r => r = vf, disp := True } s t := by
  refine ⟨_, retire_eq _, ?display, ?flag, ⟨?pc, ?steps⟩, ?frame⟩
  case display => simp
  case flag => simp
  case pc => simp
  case steps => simp
  case frame => exact (((Frame.refl _ s).advance.setDisp trivial d).writeReg rfl f).setSteps _

theorem exec_cls (s : State) :
    exec .cls s = retire ((advance s).setDisp (Vector.replicate Config.dispCells false)) := rfl

/-- The display and the collision that `Dxyn` computes, from the coordinates of before the step (44_display.md R173). -/
def drawnBy (x y : RegIdx) (n : Nat) (s : State) : Display × Bool :=
  drawSprite s.mem s.i.toNat (readReg x s).toNat (readReg y s).toNat n s.disp

theorem exec_drw (x y : RegIdx) (n : Nat) (s : State) :
    exec (.drw x y n) s = afterRangeCheck s.i.toNat n
      (retire (writeReg vf (collisionFlag (drawnBy x y n s).2)
        ((advance s).setDisp (drawnBy x y n s).1))) s := rfl

end Sys2Proof.Machine
end

section
/-! SUPPORT. The statements about `00E0` and `Dxyn` (44_display.md). -/

namespace Sys2Proof

open Sys2Proof.Machine Sys2Proof.Safety

/-- Settles O49: the step writes the display that is false everywhere. -/
theorem clsClearsEveryPixel : Obligations.ClsClearsEveryPixel := by
  intro s
  rw [exec_cls]
  obtain ⟨t, ht, hdisp, hrest⟩ := retire_setDisp_advance (Vector.replicate Config.dispCells false) s
  refine ⟨t, ht, fun cx _ cy _ => ?clear, hrest⟩
  case clear => rw [hdisp, pixel_replicate_false]

/-- Settles O50: past the range check the step writes the drawn display and the draw's collision; with fewer than 16
rows a draw touches no cell twice. -/
theorem drawXorsCoveredPixels : Obligations.DrawXorsCoveredPixels := by
  intro x y n s hwf
  have hn : n < 16 := of_decide_eq_true hwf
  have hrows : n ≤ 32 := by omega
  rw [exec_drw]
  refine ⟨afterRangeCheck_outside _ s, fun hin => ?inside⟩
  case inside =>
    rw [afterRangeCheck_inside _ s hin]
    obtain ⟨t, ht, hdisp, hflag, hrest⟩ :=
      retire_writeReg_vf_setDisp_advance (collisionFlag (drawnBy x y n s).2) (drawnBy x y n s).1 s
    refine ⟨t, ht, fun cx hx cy hy => ?pixels, ?flagRange, ?collision, hrest⟩
    case pixels => rw [hdisp, drawnBy]; exact pixel_drawSprite _ _ _ _ hrows _ hx hy
    case flagRange => rw [hflag]; exact collisionFlag_eq_one_or_zero _
    case collision => rw [hflag, collisionFlag_eq_one_iff, drawnBy, drawSprite_collision_iff _ _ _ _ hrows]

end Sys2Proof
end

section
/-! SUPPORT. What the timer instructions of 45_keypad_timers.md answer: a step that ends in a write of one timer. -/

namespace Sys2Proof.Safety

open Sys2Proof.Machine

section
variable {w : Writes} {s t : State}

theorem Frame.setDt (h : Frame w s t) (hw : w.dt) (b : Byte) : Frame w s (t.setDt b) :=
  ⟨h.regs, h.i, h.sp, h.stack, fun hn => absurd hw hn, h.st, h.disp, h.draws, h.mem, h.keys, h.quit, h.err⟩

theorem Frame.setSt (h : Frame w s t) (hw : w.st) (b : Byte) : Frame w s (t.setSt b) :=
  ⟨h.regs, h.i, h.sp, h.stack, h.dt, fun hn => absurd hw hn, h.disp, h.draws, h.mem, h.keys, h.quit, h.err⟩

end

end Sys2Proof.Safety

namespace Sys2Proof.Machine

open Sys2Proof.Safety

/-- A step that ends in a write of the delay timer: it completes with that byte and changes nothing else. -/
theorem retire_setDt_advance (b : Byte) (s : State) :
    ∃ t, retire ((advance s).setDt b) = .next t ∧ t.dt = b ∧ FallsThrough s t ∧ Frame { dt := True } s t := by
  refine ⟨_, retire_eq _, ?value, ⟨?pc, ?steps⟩, ?frame⟩
  case value => simp
  case pc => simp
  case steps => simp
  case frame => exact ((Frame.refl _ s).advance.setDt trivial b).setSteps _

/-- A step that ends in a write of the sound timer: it completes with that byte and changes nothing else. -/
theorem retire_setSt_advance (b : Byte) (s : State) :
    ∃ t, retire ((advance s).setSt b) = .next t ∧ t.st = b ∧ FallsThrough s t ∧ Frame { st := True } s t := by
  refine ⟨_, retire_eq _, ?value, ⟨?pc, ?steps⟩, ?frame⟩
  case value => simp
  case pc => simp
  case steps => simp
  case frame => exact ((Frame.refl _ s).advance.setSt trivial b).setSteps _

section
variable (x : RegIdx) (s : State)

theorem exec_ldVxDt : exec (.ldVxDt x) s = retire (writeReg x s.dt (advance s)) := rfl

theorem exec_ldDtVx : exec (.ldDtVx x) s = retire ((advance s).setDt (readReg x s)) := rfl

theorem exec_ldStVx : exec (.ldStVx x) s = retire ((advance s).setSt (readReg x s)) := rfl

end

end Sys2Proof.Machine
end

section
/-! SUPPORT. The statement about `Fx07`, `Fx15` and `Fx18` (45_keypad_timers.md). -/

namespace Sys2Proof

open Sys2Proof.Machine Sys2Proof.Safety

/-- Settles O53: each is one write, of `dt` into a register and of `V[x]` into a timer. -/
theorem timerTransfers : Obligations.TimerTransfers := by
  intro x s
  rw [exec_ldVxDt, exec_ldDtVx, exec_ldStVx]
  exact ⟨retire_writeReg_advance x s.dt s, retire_setDt_advance (readReg x s) s,
    retire_setSt_advance (readReg x s) s⟩

end Sys2Proof
end

section
/-! SUPPORT. What `load` answers (70_reset_and_hazards.md R262, R263): a run of bytes read back inside and outside it,
and the two runs of `load`, the font and above it the ROM, for any font. -/

namespace Sys2Proof.Machine

section
variable {bs : List Byte} {m : Memory} {a : Nat} (hm : Memory.wf m = true)
  (ha : a + bs.length ≤ Config.memSize)
include hm ha

theorem memGet_storeBytes_inside (k : Nat) (hk : k < bs.length) : memGet (storeBytes m a bs) (a + k) = bs[k] := by
  rw [memGet_storeBytes bs m hm a ha, if_pos ⟨by omega, by omega⟩, Nat.add_sub_cancel_left,
    List.getElem?_eq_getElem hk, Option.getD_some]

theorem memGet_storeBytes_outside (c : Nat) (hc : c < a ∨ a + bs.length ≤ c) :
    memGet (storeBytes m a bs) c = memGet m c := by
  rw [memGet_storeBytes bs m hm a ha, if_neg (by omega)]

end

/-- Memory after `load`: the font stored first, then the ROM. -/
def loadedMem (font : Vector Byte 80) (rom : List Byte) (m : Memory) : Memory :=
  storeBytes (storeBytes m 0x000 font.toList) 0x200 rom

theorem loadWith_fits (font : Vector Byte 80) {rom : List Byte} (s : State) (hrom : rom.length ≤ 3584) :
    loadWith font rom s = .next (s.setMem (loadedMem font rom s.mem)) :=
  if_pos (decide_eq_true hrom)

section
variable (font : Vector Byte 80) {rom : List Byte} {m : Memory} (hm : Memory.wf m = true)

theorem font_inside_memory : 0x000 + font.toList.length ≤ Config.memSize := by
  rw [Vector.length_toList]
  decide

theorem rom_inside_memory (hrom : rom.length ≤ 3584) : 0x200 + rom.length ≤ Config.memSize :=
  Nat.add_le_add_left hrom 0x200

include hm

theorem memory_wf_fontStored : Memory.wf (storeBytes m 0x000 font.toList) = true :=
  memory_wf_storeBytes font.toList m hm 0x000 (font_inside_memory font)

variable (hrom : rom.length ≤ 3584)
include hrom

theorem memGet_loadedMem_rom (a : Nat) (h : a < rom.length) :
    memGet (loadedMem font rom m) (0x200 + a) = rom[a] :=
  memGet_storeBytes_inside (memory_wf_fontStored font hm) (rom_inside_memory hrom) a h

/-- Outside the ROM's addresses `load` leaves what the font's store left. -/
theorem memGet_loadedMem_outside_rom (a : Nat) (ha : a < 0x200 ∨ 0x200 + rom.length ≤ a) :
    memGet (loadedMem font rom m) a = memGet (storeBytes m 0x000 font.toList) a :=
  memGet_storeBytes_outside (memory_wf_fontStored font hm) (rom_inside_memory hrom) a ha

/-- The ROM starts above the font, so the font's bytes survive its store. -/
theorem memGet_loadedMem_font (a : Nat) (h : a < 80) : memGet (loadedMem font rom m) a = font[a] := by
  have hlen : a < font.toList.length := by rwa [Vector.length_toList]
  calc memGet (loadedMem font rom m) a
      = memGet (storeBytes m 0x000 font.toList) a :=
        memGet_loadedMem_outside_rom font hm hrom a (.inl (by omega))
    _ = memGet (storeBytes m 0x000 font.toList) (0x000 + a) := by rw [Nat.zero_add]
    _ = font.toList[a] := memGet_storeBytes_inside hm (font_inside_memory font) a hlen
    _ = font[a] := Vector.getElem_toList hlen

theorem memGet_loadedMem_other (a : Nat) (hfont : 80 ≤ a) (ha : a < 0x200 ∨ 0x200 + rom.length ≤ a) :
    memGet (loadedMem font rom m) a = memGet m a := by
  have hlen : 0x000 + font.toList.length ≤ a := by rwa [Vector.length_toList, Nat.zero_add]
  rw [memGet_loadedMem_outside_rom font hm hrom a ha,
    memGet_storeBytes_outside hm (font_inside_memory font) a (.inr hlen)]

end

end Sys2Proof.Machine
end

section
/-! SUPPORT. The statement about `load` (70_reset_and_hazards.md). -/

namespace Sys2Proof

open Sys2Proof.Machine

/-- Settles O57: the next state differs in memory only, which holds the font and above it the ROM. -/
theorem loadInstallsFontAndRom : Obligations.LoadInstallsFontAndRom := by
  intro rom s hwf hrom
  refine ⟨_, loadWith_fits Config.font s hrom, ?font, ?rom, ?other, ?fields⟩
  case font => exact memGet_loadedMem_font Config.font hwf hrom
  case rom => exact memGet_loadedMem_rom Config.font hwf hrom
  case other => exact memGet_loadedMem_other Config.font hwf hrom
  case fields => rfl

end Sys2Proof
end

section
/-! SUPPORT. The dispatch of 30_encoding.md R85, one equation per major opcode, and assembled words of the majors
that have a sub-dispatch. -/

namespace Sys2Proof

section
variable {w : Word}

theorem decodeWord_major0 (h : fieldA w = 0x0) :
    decodeWord w = dispatch0 (fieldB w) (fieldC w) (fieldD w) := by simp [decodeWord, h]

theorem decodeWord_major1 (h : fieldA w = 0x1) : decodeWord w = some (.jp (fieldNnn w)) := by
  simp [decodeWord, h]

theorem decodeWord_major2 (h : fieldA w = 0x2) : decodeWord w = some (.call (fieldNnn w)) := by
  simp [decodeWord, h]

theorem decodeWord_major3 (h : fieldA w = 0x3) : decodeWord w = some (.seImm (fieldB w) (fieldKk w)) := by
  simp [decodeWord, h]

theorem decodeWord_major4 (h : fieldA w = 0x4) : decodeWord w = some (.sneImm (fieldB w) (fieldKk w)) := by
  simp [decodeWord, h]

theorem decodeWord_major5 (h : fieldA w = 0x5) :
    decodeWord w = if fieldD w = 0x0 then some (.seReg (fieldB w) (fieldC w)) else none := by
  simp [decodeWord, h]

theorem decodeWord_major6 (h : fieldA w = 0x6) : decodeWord w = some (.ldImm (fieldB w) (fieldKk w)) := by
  simp [decodeWord, h]

theorem decodeWord_major7 (h : fieldA w = 0x7) : decodeWord w = some (.addImm (fieldB w) (fieldKk w)) := by
  simp [decodeWord, h]

theorem decodeWord_major8 (h : fieldA w = 0x8) :
    decodeWord w = dispatch8 (fieldB w) (fieldC w) (fieldD w) := by simp [decodeWord, h]

theorem decodeWord_major9 (h : fieldA w = 0x9) :
    decodeWord w = if fieldD w = 0x0 then some (.sneReg (fieldB w) (fieldC w)) else none := by
  simp [decodeWord, h]

theorem decodeWord_majorA (h : fieldA w = 0xA) : decodeWord w = some (.ldI (fieldNnn w)) := by
  simp [decodeWord, h]

theorem decodeWord_majorB (h : fieldA w = 0xB) : decodeWord w = some (.jpV0 (fieldNnn w)) := by
  simp [decodeWord, h]

theorem decodeWord_majorC (h : fieldA w = 0xC) : decodeWord w = some (.rnd (fieldB w) (fieldKk w)) := by
  simp [decodeWord, h]

theorem decodeWord_majorD (h : fieldA w = 0xD) :
    decodeWord w = some (.drw (fieldB w) (fieldC w) (fieldD w).toNat) := by simp [decodeWord, h]

theorem decodeWord_majorE (h : fieldA w = 0xE) :
    decodeWord w = dispatchE (fieldB w) (fieldC w) (fieldD w) := by simp [decodeWord, h]

theorem decodeWord_majorF (h : fieldA w = 0xF) :
    decodeWord w = dispatchF (fieldB w) (fieldC w) (fieldD w) := by simp [decodeWord, h]

end

/-- The major opcodes, for a case split. -/
theorem nibble_cases (a : Nibble) :
    a = 0x0 ∨ a = 0x1 ∨ a = 0x2 ∨ a = 0x3 ∨ a = 0x4 ∨ a = 0x5 ∨ a = 0x6 ∨ a = 0x7 ∨
    a = 0x8 ∨ a = 0x9 ∨ a = 0xA ∨ a = 0xB ∨ a = 0xC ∨ a = 0xD ∨ a = 0xE ∨ a = 0xF := by
  revert a
  decide

theorem decodeWord_formatXY_8 (x y d : Nibble) : decodeWord (formatXY 0x8 x y d) = dispatch8 x y d := by
  rw [decodeWord_major8 (fieldA_formatXY _ _ _ _), fieldB_formatXY, fieldC_formatXY, fieldD_formatXY]

theorem decodeWord_formatXK_E (x : RegIdx) (kk : Byte) :
    decodeWord (formatXK 0xE x kk) = dispatchE x (kk.extractLsb' 4 4) (kk.extractLsb' 0 4) := by
  rw [decodeWord_majorE (fieldA_formatXK _ _ _), fieldB_formatXK, fieldC_formatXK, fieldD_formatXK]

theorem decodeWord_formatXK_F (x : RegIdx) (kk : Byte) :
    decodeWord (formatXK 0xF x kk) = dispatchF x (kk.extractLsb' 4 4) (kk.extractLsb' 0 4) := by
  rw [decodeWord_majorF (fieldA_formatXK _ _ _), fieldB_formatXK, fieldC_formatXK, fieldD_formatXK]

end Sys2Proof
end

section
/-! SUPPORT. A word put together again from its fields, and what a sub-dispatch answers: the word of the instruction
it names, and the fields it refuses (30_encoding.md R85, R88). -/

namespace Sys2Proof

section
variable (w : Word)

theorem formatA_fields : formatA (fieldA w) (fieldNnn w) = w :=
  BitVec.extractLsb'_append_extractLsb' (w := 4) (len := 12)

theorem fieldKk_nibbles : fieldKk w = fieldC w ++ fieldD w :=
  (BitVec.extractLsb'_append_extractLsb'_eq_extractLsb' (start₂ := 4) (len₁ := 4) (len₂ := 4) rfl).symm

theorem fieldNnn_nibbles : fieldNnn w = fieldB w ++ fieldKk w :=
  (BitVec.extractLsb'_append_extractLsb'_eq_extractLsb' (start₂ := 8) (len₁ := 8) (len₂ := 4) rfl).symm

theorem formatXK_fields : formatXK (fieldA w) (fieldB w) (fieldKk w) = w := by
  have hhigh : fieldA w ++ fieldB w = highByte w := BitVec.extractLsb'_append_extractLsb'_eq_extractLsb' rfl
  rw [formatXK, hhigh]
  exact wordOfBytes_bytes w

theorem formatXY_fields : formatXY (fieldA w) (fieldB w) (fieldC w) (fieldD w) = w := by
  rw [formatXY, ← fieldKk_nibbles]
  exact formatXK_fields w

theorem fieldKk_eq_iff (kk : Byte) :
    fieldKk w = kk ↔ fieldC w = kk.extractLsb' 4 4 ∧ fieldD w = kk.extractLsb' 0 4 := by
  constructor
  · rintro rfl
    rw [fieldKk_nibbles, BitVec.extractLsb'_append_eq_left, BitVec.extractLsb'_append_eq_right]
    exact ⟨rfl, rfl⟩
  · rintro ⟨hc, hd⟩
    rw [fieldKk_nibbles, hc, hd]
    exact BitVec.extractLsb'_append_extractLsb' (w := 4) (len := 4)

theorem fieldNnn_eq_iff (nnn : Addr12) :
    fieldNnn w = nnn ↔ fieldB w = nnn.extractLsb' 8 4 ∧ fieldKk w = nnn.extractLsb' 0 8 := by
  constructor
  · rintro rfl
    rw [fieldNnn_nibbles, BitVec.extractLsb'_append_eq_left, BitVec.extractLsb'_append_eq_right]
    exact ⟨rfl, rfl⟩
  · rintro ⟨hb, hk⟩
    rw [fieldNnn_nibbles, hb, hk]
    exact BitVec.extractLsb'_append_extractLsb' (w := 4) (len := 8)

end

section
variable {x y b c d : Nibble} {i : Instr}

theorem dispatch0_some (h : dispatch0 b c d = some i) : WellFormed i ∧ encode i = formatXY 0x0 b c d := by
  unfold dispatch0 at h
  split_ifs at h with h1 h2 h3
  · obtain ⟨rfl, rfl, rfl⟩ := h1; cases h; exact ⟨rfl, rfl⟩
  · obtain ⟨rfl, rfl, rfl⟩ := h2; cases h; exact ⟨rfl, rfl⟩
  · obtain ⟨rfl, rfl, rfl⟩ := h3; cases h; exact ⟨rfl, rfl⟩

theorem dispatch8_some (h : dispatch8 x y d = some i) : WellFormed i ∧ encode i = formatXY 0x8 x y d := by
  rcases nibble_cases d with rfl | rfl | rfl | rfl | rfl | rfl | rfl | rfl |
    rfl | rfl | rfl | rfl | rfl | rfl | rfl | rfl <;> cases h <;> exact ⟨rfl, rfl⟩

theorem dispatchE_some (h : dispatchE x c d = some i) : WellFormed i ∧ encode i = formatXY 0xE x c d := by
  unfold dispatchE at h
  split_ifs at h with h1 h2
  · obtain ⟨rfl, rfl⟩ := h1; cases h; exact ⟨rfl, rfl⟩
  · obtain ⟨rfl, rfl⟩ := h2; cases h; exact ⟨rfl, rfl⟩

theorem dispatchF_some (h : dispatchF x c d = some i) : WellFormed i ∧ encode i = formatXY 0xF x c d := by
  unfold dispatchF at h
  split_ifs at h with hcd hcd hcd hcd hcd hcd hcd hcd hcd <;>
    (obtain ⟨rfl, rfl⟩ := hcd; cases h; exact ⟨rfl, rfl⟩)

/-- A chain of tests names no instruction exactly when every test fails. -/
theorem ite_some_eq_none {p : Prop} [Decidable p] {rest : Option Instr} :
    (if p then some i else rest) = none ↔ ¬ p ∧ rest = none := by
  by_cases hp : p <;> simp [hp]

theorem dispatch0_eq_none :
    dispatch0 b c d = none ↔ ¬ (b = 0x0 ∧ c = 0x0 ∧ d = 0x0) ∧ ¬ (b = 0x0 ∧ c = 0xE ∧ d = 0x0) ∧
      ¬ (b = 0x0 ∧ c = 0xE ∧ d = 0xE) := by
  simp only [dispatch0, ite_some_eq_none, and_true]

theorem dispatch8_eq_none : dispatch8 x y d = none ↔ 8 ≤ d.toNat ∧ d ≠ 0xE := by
  rcases nibble_cases d with rfl | rfl | rfl | rfl | rfl | rfl | rfl | rfl |
    rfl | rfl | rfl | rfl | rfl | rfl | rfl | rfl <;> simp [dispatch8]

theorem dispatchE_eq_none :
    dispatchE x c d = none ↔ ¬ (c = 0x9 ∧ d = 0xE) ∧ ¬ (c = 0xA ∧ d = 0x1) := by
  simp only [dispatchE, ite_some_eq_none, and_true]

theorem dispatchF_eq_none :
    dispatchF x c d = none ↔ ∀ k ∈ ([0x07, 0x0A, 0x15, 0x18, 0x1E, 0x29, 0x33, 0x55, 0x65] : List Byte),
      ¬ (c = k.extractLsb' 4 4 ∧ d = k.extractLsb' 0 4) := by
  simp [dispatchF, ite_some_eq_none]

end

end Sys2Proof
end

section
/-! SUPPORT. The rows of the opcode map (30_encoding.md R86): no word matches two of them, and no illegal word matches
one. -/

namespace Sys2Proof

theorem opcodeRow_matches_iff (r : OpcodeRow) (w : Word) : r.matches w = true ↔ w &&& r.mask = r.value :=
  beq_iff_eq

section
variable {r r' : OpcodeRow} {w : Word}

/-- Two rows tell each other apart by the bits that both fix. -/
theorem opcodeRows_disjoint : ∀ r ∈ opcodeRows, ∀ r' ∈ opcodeRows,
    r.value &&& r'.mask = r'.value &&& r.mask → r = r' := by
  decide

theorem opcodeRows_name_inj : ∀ r ∈ opcodeRows, ∀ r' ∈ opcodeRows, r.name = r'.name → r = r' := by
  decide

theorem opcodeRow_unique (hr : r ∈ opcodeRows) (hr' : r' ∈ opcodeRows) (hm : r.matches w = true)
    (hm' : r'.matches w = true) : r = r' := by
  rw [opcodeRow_matches_iff] at hm hm'
  refine opcodeRows_disjoint r hr r' hr' ?_
  rw [← hm, ← hm', BitVec.and_assoc, BitVec.and_assoc, BitVec.and_comm r.mask]

/-- Every instruction's word matches the row its pattern names. -/
theorem rowMatch (i : Instr) : Laws.RowMatch.Statement i := by
  cases i
  case nop => exact Laws.RowMatch.nop
  case cls => exact Laws.RowMatch.cls
  case ret => exact Laws.RowMatch.ret
  case jp nnn => exact Laws.RowMatch.jp nnn
  case call nnn => exact Laws.RowMatch.call nnn
  case seImm x kk => exact Laws.RowMatch.seImm x kk
  case sneImm x kk => exact Laws.RowMatch.sneImm x kk
  case seReg x y => exact Laws.RowMatch.seReg x y
  case ldImm x kk => exact Laws.RowMatch.ldImm x kk
  case addImm x kk => exact Laws.RowMatch.addImm x kk
  case ldReg x y => exact Laws.RowMatch.ldReg x y
  case orReg x y => exact Laws.RowMatch.orReg x y
  case andReg x y => exact Laws.RowMatch.andReg x y
  case xorReg x y => exact Laws.RowMatch.xorReg x y
  case addReg x y => exact Laws.RowMatch.addReg x y
  case sub x y => exact Laws.RowMatch.sub x y
  case shr x y => exact Laws.RowMatch.shr x y
  case subn x y => exact Laws.RowMatch.subn x y
  case shl x y => exact Laws.RowMatch.shl x y
  case sneReg x y => exact Laws.RowMatch.sneReg x y
  case ldI nnn => exact Laws.RowMatch.ldI nnn
  case jpV0 nnn => exact Laws.RowMatch.jpV0 nnn
  case rnd x kk => exact Laws.RowMatch.rnd x kk
  case drw x y n => exact Laws.RowMatch.drw x y n
  case skp x => exact Laws.RowMatch.skp x
  case sknp x => exact Laws.RowMatch.sknp x
  case ldVxDt x => exact Laws.RowMatch.ldVxDt x
  case ldVxK x => exact Laws.RowMatch.ldVxK x
  case ldDtVx x => exact Laws.RowMatch.ldDtVx x
  case ldStVx x => exact Laws.RowMatch.ldStVx x
  case addI x => exact Laws.RowMatch.addI x
  case ldF x => exact Laws.RowMatch.ldF x
  case ldB x => exact Laws.RowMatch.ldB x
  case stRegs x => exact Laws.RowMatch.stRegs x
  case ldRegs x => exact Laws.RowMatch.ldRegs x

/-- A field that the mask keeps whole is the match's own. -/
theorem and_extractLsb'_of_mask {start len : Nat} {m v : Word} (h : w &&& m = v)
    (hm : m.extractLsb' start len = BitVec.allOnes len) : w.extractLsb' start len = v.extractLsb' start len := by
  rw [← h, BitVec.extractLsb'_and, hm, BitVec.and_allOnes]

theorem opcodeRows_fix_major : ∀ r ∈ opcodeRows, r.mask.extractLsb' 12 4 = BitVec.allOnes 4 := by decide

theorem opcodeRows_major0 : ∀ r ∈ opcodeRows, fieldA r.value = 0x0 →
    r.mask.extractLsb' 0 12 = BitVec.allOnes 12 ∧
      (fieldNnn r.value = 0x000 ∨ fieldNnn r.value = 0x0E0 ∨ fieldNnn r.value = 0x0EE) := by
  decide

theorem opcodeRows_major5_9 : ∀ r ∈ opcodeRows, fieldA r.value = 0x5 ∨ fieldA r.value = 0x9 →
    r.mask.extractLsb' 0 4 = BitVec.allOnes 4 ∧ fieldD r.value = 0x0 := by
  decide

theorem opcodeRows_major8 : ∀ r ∈ opcodeRows, fieldA r.value = 0x8 →
    r.mask.extractLsb' 0 4 = BitVec.allOnes 4 ∧ ((fieldD r.value).toNat < 8 ∨ fieldD r.value = 0xE) := by
  decide

theorem opcodeRows_majorE : ∀ r ∈ opcodeRows, fieldA r.value = 0xE →
    r.mask.extractLsb' 0 8 = BitVec.allOnes 8 ∧ (fieldKk r.value = 0x9E ∨ fieldKk r.value = 0xA1) := by
  decide

theorem opcodeRows_majorF : ∀ r ∈ opcodeRows, fieldA r.value = 0xF →
    r.mask.extractLsb' 0 8 = BitVec.allOnes 8 ∧
      fieldKk r.value ∈ ([0x07, 0x0A, 0x15, 0x18, 0x1E, 0x29, 0x33, 0x55, 0x65] : List Byte) := by
  decide

end

end Sys2Proof
end

section
/-! SUPPORT. The statements about the encoding (30_encoding.md). -/

namespace Sys2Proof

/-- Settles O1: each encoded word has its fields back, and the dispatch on them names the instruction; the row count
of `Dxyn` fits its nibble. -/
theorem decodeOfEncode : Obligations.DecodeOfEncode := by
  intro i hwf
  cases i
  case nop | cls | ret => decide
  case jp nnn => simp [encode, decodeWord_major1]
  case call nnn => simp [encode, decodeWord_major2]
  case seImm x kk => simp [encode, decodeWord_major3]
  case sneImm x kk => simp [encode, decodeWord_major4]
  case seReg x y => simp [encode, decodeWord_major5]
  case ldImm x kk => simp [encode, decodeWord_major6]
  case addImm x kk => simp [encode, decodeWord_major7]
  case ldReg | orReg | andReg | xorReg | addReg | sub | shr | subn | shl =>
    exact decodeWord_formatXY_8 _ _ _
  case sneReg x y => simp [encode, decodeWord_major9]
  case ldI nnn => simp [encode, decodeWord_majorA]
  case jpV0 nnn => simp [encode, decodeWord_majorB]
  case rnd x kk => simp [encode, decodeWord_majorC]
  case drw x y n =>
    have hn : n < 16 := of_decide_eq_true hwf
    simp [encode, decodeWord_majorD, Nat.mod_eq_of_lt hn]
  case skp | sknp => exact decodeWord_formatXK_E _ _
  case ldVxDt | ldVxK | ldDtVx | ldStVx | addI | ldF | ldB | stRegs | ldRegs =>
    exact decodeWord_formatXK_F _ _

/-- Settles O2: by major opcode, the word put together again from the fields that the instruction carries. -/
theorem encodeOfDecode : Obligations.EncodeOfDecode := by
  intro w i h
  have hA := formatA_fields w
  have hXK := formatXK_fields w
  have hXY := formatXY_fields w
  rcases nibble_cases (fieldA w) with ha | ha | ha | ha | ha | ha | ha | ha |
    ha | ha | ha | ha | ha | ha | ha | ha <;> rw [ha] at hA hXK hXY
  · rw [decodeWord_major0 ha] at h; rw [← hXY]; exact dispatch0_some h
  · rw [decodeWord_major1 ha] at h; cases h; exact ⟨rfl, hA⟩
  · rw [decodeWord_major2 ha] at h; cases h; exact ⟨rfl, hA⟩
  · rw [decodeWord_major3 ha] at h; cases h; exact ⟨rfl, hXK⟩
  · rw [decodeWord_major4 ha] at h; cases h; exact ⟨rfl, hXK⟩
  · rw [decodeWord_major5 ha] at h
    split_ifs at h with hd
    rw [hd] at hXY; cases h; exact ⟨rfl, hXY⟩
  · rw [decodeWord_major6 ha] at h; cases h; exact ⟨rfl, hXK⟩
  · rw [decodeWord_major7 ha] at h; cases h; exact ⟨rfl, hXK⟩
  · rw [decodeWord_major8 ha] at h; rw [← hXY]; exact dispatch8_some h
  · rw [decodeWord_major9 ha] at h
    split_ifs at h with hd
    rw [hd] at hXY; cases h; exact ⟨rfl, hXY⟩
  · rw [decodeWord_majorA ha] at h; cases h; exact ⟨rfl, hA⟩
  · rw [decodeWord_majorB ha] at h; cases h; exact ⟨rfl, hA⟩
  · rw [decodeWord_majorC ha] at h; cases h; exact ⟨rfl, hXK⟩
  · rw [decodeWord_majorD ha] at h; cases h
    refine ⟨decide_eq_true (fieldD w).isLt, ?_⟩
    rw [encode, BitVec.ofNat_toNat, BitVec.setWidth_eq, hXY]
  · rw [decodeWord_majorE ha] at h; rw [← hXY]; exact dispatchE_some h
  · rw [decodeWord_majorF ha] at h; rw [← hXY]; exact dispatchF_some h

/-- Settles O4: by major opcode; a sub-dispatch refuses the words whose low fields name no row. -/
theorem illegalWordsAreTheListedOnes : Obligations.IllegalWordsAreTheListedOnes := by
  intro w
  rcases nibble_cases (fieldA w) with ha | ha | ha | ha | ha | ha | ha | ha |
    ha | ha | ha | ha | ha | ha | ha | ha
  · rw [decodeWord_major0 ha, dispatch0_eq_none]; simp [ha, fieldNnn_eq_iff, fieldKk_eq_iff]
  · simp [decodeWord_major1 ha, ha]
  · simp [decodeWord_major2 ha, ha]
  · simp [decodeWord_major3 ha, ha]
  · simp [decodeWord_major4 ha, ha]
  · simp [decodeWord_major5 ha, ha]
  · simp [decodeWord_major6 ha, ha]
  · simp [decodeWord_major7 ha, ha]
  · rw [decodeWord_major8 ha, dispatch8_eq_none]; simp [ha]
  · simp [decodeWord_major9 ha, ha]
  · simp [decodeWord_majorA ha, ha]
  · simp [decodeWord_majorB ha, ha]
  · simp [decodeWord_majorC ha, ha]
  · simp [decodeWord_majorD ha, ha]
  · rw [decodeWord_majorE ha, dispatchE_eq_none]; simp [ha, fieldKk_eq_iff]
  · rw [decodeWord_majorF ha, dispatchF_eq_none]; simp [ha, fieldKk_eq_iff]

/-- An illegal word matches no row: the rows of its major opcode all fix a field of it, at values it does not have. -/
theorem not_matches_of_illegal {w : Word} (h : decodeWord w = none) :
    ∀ r ∈ opcodeRows, r.matches w = false := by
  intro r hr
  refine Bool.eq_false_iff.2 fun hm => ?_
  have hv := (opcodeRow_matches_iff r w).1 hm
  have hmajor : fieldA w = fieldA r.value := and_extractLsb'_of_mask hv (opcodeRows_fix_major r hr)
  rcases (illegalWordsAreTheListedOnes w).1 h with ⟨ha, h0, hE0, hEE⟩ | ⟨ha, hd⟩ | ⟨ha, hle, hd⟩ |
    ⟨ha, hd⟩ | ⟨ha, h9E, hA1⟩ | ⟨ha, hk⟩ <;> rw [hmajor] at ha
  · obtain ⟨hmask, hlow⟩ := opcodeRows_major0 r hr ha
    have hw : fieldNnn w = fieldNnn r.value := and_extractLsb'_of_mask hv hmask
    rw [hw] at h0 hE0 hEE
    exact hlow.elim h0 fun hlow => hlow.elim hE0 hEE
  · obtain ⟨hmask, hlow⟩ := opcodeRows_major5_9 r hr (.inl ha)
    exact hd ((and_extractLsb'_of_mask hv hmask).trans hlow)
  · obtain ⟨hmask, hlow⟩ := opcodeRows_major8 r hr ha
    have hw : fieldD w = fieldD r.value := and_extractLsb'_of_mask hv hmask
    rw [hw] at hle hd
    exact hlow.elim (Nat.not_lt.2 hle) hd
  · obtain ⟨hmask, hlow⟩ := opcodeRows_major5_9 r hr (.inr ha)
    exact hd ((and_extractLsb'_of_mask hv hmask).trans hlow)
  · obtain ⟨hmask, hlow⟩ := opcodeRows_majorE r hr ha
    have hw : fieldKk w = fieldKk r.value := and_extractLsb'_of_mask hv hmask
    rw [hw] at h9E hA1
    exact hlow.elim h9E hA1
  · obtain ⟨hmask, hlow⟩ := opcodeRows_majorF r hr ha
    exact hk _ hlow (and_extractLsb'_of_mask hv hmask)

/-- Settles O3: the word of the instruction matches the row its pattern names, and no word matches two. -/
theorem decodeAgreesWithOpcodeMap : Obligations.DecodeAgreesWithOpcodeMap := by
  intro w
  refine ⟨fun i hi r hr => ?legal, not_matches_of_illegal⟩
  case legal =>
    obtain ⟨-, rfl⟩ := encodeOfDecode w i hi
    obtain ⟨row, hrow, hname, hmatch⟩ := rowMatch i
    rw [← hname]
    constructor
    · intro hm
      rw [opcodeRow_unique hr hrow hm hmatch]
    · intro hn
      rwa [opcodeRows_name_inj r hr row hrow hn]

/-- Settles O5: the ten words are dispatched. -/
theorem sampleWordsDecode : Obligations.SampleWordsDecode := by
  unfold Obligations.SampleWordsDecode
  decide

end Sys2Proof
end

section
/-! SUPPORT. What a step is, by what the fetch answers, and what the fetch answers at a word (30_encoding.md R84). -/

namespace Sys2Proof.Machine

open Sys2Proof.Safety

section
variable {s : State} {w : Word} {i : Instr}

theorem step_halted {e : Err} (he : s.err = some e) : step s = .next s := by simp only [step, he, stayHalted]

theorem step_fetchError {e : Err} (he : s.err = none) (hf : fetchInstr s = .error e) :
    step s = .next (s.setErr (some e)) := by
  simp only [step, he, hf, raise_eq]

theorem step_fetched (he : s.err = none) (hf : fetchInstr s = .ok i) : step s = exec i s := by
  simp only [step, he, hf]

theorem fetchInstr_of_fetchWord_error {e : Err} (h : fetchWord s = .error e) : fetchInstr s = .error e := by
  simp only [fetchInstr, h]

theorem fetchInstr_legal (hpc : Fetchable s) (hw : wordAt s w) (hd : decodeWord w = some i) :
    fetchInstr s = .ok i := by
  rw [fetchInstr_of_word s w hpc.1 hpc.2 hw.1 hw.2, hd]

theorem fetchInstr_illegal (hpc : Fetchable s) (hw : wordAt s w) (hd : decodeWord w = none) :
    fetchInstr s = .error (.unrecognizedInstruction w) := by
  rw [fetchInstr_of_word s w hpc.1 hpc.2 hw.1 hw.2, hd]

theorem fetchInstr_encoded (hpc : Fetchable s) (hw : wordAt s (encode i)) (hwf : WellFormed i) :
    fetchInstr s = .ok i :=
  fetchInstr_legal hpc hw (decodeOfEncode i hwf)

/-- No error of the fetch or of dispatch is E3 (60_exceptions.md R228). -/
theorem errCode_of_fetchInstr {e : Err} (h : fetchInstr s = .error e) : errCode e ≠ 3 := by
  rcases Nat.mod_two_eq_zero_or_one s.pc.toNat with heven | hodd
  · rcases Nat.lt_or_ge (s.pc.toNat + 1) 4096 with hlow | hhigh
    · rw [fetchInstr, fetchWord_ok s heven hlow] at h
      dsimp only at h
      split at h <;> cases h
      simp [errCode]
    · rw [fetchInstr_of_fetchWord_error (fetchWord_high s heven hhigh)] at h
      cases h
      simp [errCode]
  · rw [fetchInstr_of_fetchWord_error (fetchWord_odd s hodd)] at h
    cases h
    simp [errCode]

end

/-! A word placed for the next fetch (log entry 8). -/

section
variable (s : State) (w : Word)

theorem withFetchWord_eq_placeWord : s.withFetchWord 16 w.toNat = placeWord s w := by
  rw [State.withFetchWord, Nat.mod_eq_of_lt w.isLt, BitVec.ofNat_toNat, BitVec.setWidth_eq]

theorem placeWord_err : (placeWord s w).err = none := rfl

theorem placeWord_pc :
    (placeWord s w).pc = if fetchable s.pc then s.pc else BitVec.ofNat 16 Config.progBase := rfl

theorem placeWord_mem : (placeWord s w).mem = storeBytes s.mem (placeWord s w).pc.toNat [highByte w, lowByte w] :=
  rfl

theorem placeWord_fetchable : Fetchable (placeWord s w) := by
  refine (fetchable_iff _).1 ?_
  rw [placeWord_pc]
  split_ifs with h
  · exact h
  · decide

variable {s}

theorem placeWord_wordAt (hwf : Memory.wf s.mem = true) : wordAt (placeWord s w) w := by
  have hend := (placeWord_fetchable s w).2
  have hread := memGet_storeBytes_inside (bs := [highByte w, lowByte w]) hwf (a := (placeWord s w).pc.toNat) hend
  rw [wordAt, placeWord_mem]
  exact ⟨hread 0 Nat.two_pos, hread 1 Nat.one_lt_two⟩

end

end Sys2Proof.Machine
end

section
/-! SUPPORT. The statements about one step (30_encoding.md R84, 20_memory.md R56). -/

namespace Sys2Proof

open Sys2Proof.Machine Sys2Proof.Safety

/-- Settles O6: the fetch reads the word and dispatch names the instruction. -/
theorem stepRunsDecodedInstruction : Obligations.StepRunsDecodedInstruction := by
  intro s w i he hpc hw hd
  exact step_fetched he (fetchInstr_legal hpc hw hd)

/-- Settles O7: `withFetchWord` leaves no error and a fetchable `pc`, and canonical memory gives the word back. -/
theorem placedWordRunsNext : Obligations.PlacedWordRunsNext := by
  intro s w i hwf hd
  rw [withFetchWord_eq_placeWord]
  exact stepRunsDecodedInstruction _ w i (placeWord_err s w) (placeWord_fetchable s w) (placeWord_wordAt w hwf) hd

/-- Settles O8: alignment is the first check of the fetch. -/
theorem oddPcLatchesMisalignedFetch : Obligations.OddPcLatchesMisalignedFetch := by
  intro s he hodd
  exact step_fetchError he (fetchInstr_of_fetchWord_error (fetchWord_odd s hodd))

/-- Settles O9: the bound is the second check of the fetch. -/
theorem highPcLatchesMemoryOutOfBounds : Obligations.HighPcLatchesMemoryOutOfBounds := by
  intro s he heven hhigh
  exact step_fetchError he (fetchInstr_of_fetchWord_error (fetchWord_high s heven (by omega)))

/-- Settles O10: the fetch succeeds and dispatch names no instruction. -/
theorem illegalWordLatchesUnrecognized : Obligations.IllegalWordLatchesUnrecognized := by
  intro s w he hpc hw hd
  exact step_fetchError he (fetchInstr_illegal hpc hw hd)

/-- Settles O31: the jump writes back the `pc` it was fetched from. -/
theorem selfJumpIsFixedPoint : Obligations.SelfJumpIsFixedPoint := by
  intro s nnn he hpc hw htarget
  have hself : zext12 nnn = s.pc := BitVec.eq_of_toNat_eq ((zext12_toNat nnn).trans htarget)
  rw [step_fetched he (fetchInstr_encoded hpc hw rfl), exec_jp, hself]
  rfl

end Sys2Proof
end

section
/-! SUPPORT. What `2nnn`, `00EE` with an illegal `sp`, and `Bnnn` answer (40_control_flow.md R102, R104, R105). -/

namespace Sys2Proof.Safety

open Sys2Proof.Machine

theorem Frame.stackSet {w : Writes} {s t : State} {j : Nat} (h : Frame w s t) (hj : j < 16) (hw : w.stack j)
    (a : Word) : Frame w s (stackSet j a t) := by
  refine ⟨h.regs, h.i, h.sp, fun k hk hn => ?stack, h.dt, h.st, h.disp, h.draws, h.mem, h.keys, h.quit, h.err⟩
  have hne : k ≠ j := fun hkj => hn (hkj ▸ hw)
  rw [stackGet_stackSet t j k hj, if_neg hne, h.stack k hk hn]

end Sys2Proof.Safety

namespace Sys2Proof.Machine

section
variable (nnn : Addr12) (s : State)

theorem exec_call_overflow (h : s.sp.toNat = 16) :
    exec (.call nnn) s = .next (s.setErr (some .stackOverflow)) := by
  have hsp : s.sp = 16#8 := BitVec.eq_of_toNat_eq h
  simp only [exec, execCall, hsp, if_true, raise_eq]

theorem exec_call_illegalSp (h : 16 < s.sp.toNat) :
    exec (.call nnn) s = .fault (.illegalStackPointer s.sp) := by
  have hne : s.sp ≠ 16#8 := fun hsp => by simp [hsp] at h
  simp only [exec, execCall, if_neg hne, if_pos h]

theorem exec_ret_illegalSp (h : 16 < s.sp.toNat) : exec .ret s = .fault (.illegalStackPointer s.sp) := by
  have hne : s.sp ≠ 0#8 := fun hsp => by simp [hsp] at h
  simp only [exec, execRet, if_neg hne, if_pos h]

/-- `2nnn` with a free stack entry: the state after the fetch, the push and the jump. -/
theorem exec_call_push (h : s.sp.toNat < 16) :
    exec (.call nnn) s = .next ((((stackSet s.sp.toNat (s.pc + 2) (advance s)).setSp (s.sp + 1)).setPc
      (zext12 nnn)).setSteps (s.steps + 1)) := by
  have hne : s.sp ≠ 16#8 := fun hsp => by simp [hsp] at h
  have hdepth : ¬ Config.stackDepth < s.sp.toNat := Nat.not_lt.2 (Nat.le_of_lt h)
  simp only [exec, execCall, if_neg hne, if_neg hdepth]
  rfl

variable {s}

/-- Within a stack that is not full, the push does not wrap. -/
theorem sp_succ_toNat (h : s.sp.toNat < 16) : (s.sp + 1).toNat = s.sp.toNat + 1 := by
  rw [BitVec.toNat_add]
  exact Nat.mod_eq_of_lt (Nat.lt_trans (Nat.succ_lt_succ h) (by decide))

/-- `2nnn` then `00EE`: of the two steps only the stack entry, `pc` and the step count remain. -/
theorem exec_call_ret (h : s.sp.toNat < 16) :
    ∃ t, exec (.call nnn) s = .next t ∧
      exec .ret t = .next (((stackSet s.sp.toNat (s.pc + 2) s).setPc (s.pc + 2)).setSteps (s.steps + 2)) := by
  have hsp := sp_succ_toNat h
  refine ⟨_, exec_call_push nnn s h, ?_⟩
  rw [exec_ret_pop _ (by rw [setSteps_sp, setPc_sp, setSp_sp, hsp]; omega)
    (by rw [setSteps_sp, setPc_sp, setSp_sp, hsp]; omega)]
  simp only [setSteps_sp, setPc_sp, setSp_sp, hsp, Nat.add_sub_cancel, BitVec.add_sub_cancel, stackGet_setSteps,
    stackGet_setPc, stackGet_setSp, stackGet_stackSet _ _ _ h, if_true]
  simp only [advance, stackSet, State.setSp, State.setPc, State.setSteps, State.setStack]

end

theorem exec_jpV0 (nnn : Addr12) (s : State) :
    exec (.jpV0 nnn) s =
      .next (((advance s).setPc (zext12 nnn + zext8 (readReg v0 s))).setSteps (s.steps + 1)) := rfl

/-- A 12-bit and an 8-bit number add up within 16 bits (40_control_flow.md R105). -/
theorem zext12_add_zext8_toNat (nnn : Addr12) (b : Byte) :
    (zext12 nnn + zext8 b).toNat = nnn.toNat + b.toNat := by
  have hnnn : nnn.toNat < 4096 := nnn.isLt
  have hb : b.toNat < 256 := b.isLt
  rw [BitVec.toNat_add, zext12_toNat, zext8_toNat]
  omega

end Sys2Proof.Machine
end

section
/-! SUPPORT. The statements about `2nnn`, `00EE` and `Bnnn` (40_control_flow.md). -/

namespace Sys2Proof

open Sys2Proof.Machine Sys2Proof.Safety

/-- Settles O25: the step writes `pc`, and the sum does not wrap. -/
theorem jpV0AddsOffset : Obligations.JpV0AddsOffset := by
  intro nnn s
  refine ⟨_, exec_jpV0 nnn s, ?pc, ?steps, ?frame⟩
  case pc => rw [setSteps_pc, setPc_pc, zext12_add_zext8_toNat]
  case steps => simp
  case frame => exact ((Frame.refl _ s).advance.setPc _).setSteps _

/-- Settles O26: the push, the step of `sp` and the jump. -/
theorem callPushesReturnAddress : Obligations.CallPushesReturnAddress := by
  intro nnn s h
  refine ⟨_, exec_call_push nnn s h, ?entry, ?sp, ?pc, ?steps, ?frame⟩
  case entry => simp [stackGet_stackSet _ _ _ h]
  case sp => rw [setSteps_sp, setPc_sp, setSp_sp, sp_succ_toNat h]
  case pc => simp [zext12_toNat]
  case steps => simp
  case frame =>
    exact ((((Frame.refl _ s).advance.stackSet h rfl _).setSp trivial _).setPc _).setSteps _

/-- Settles O27: the first check of `2nnn`. -/
theorem callOverflowLatchesError : Obligations.CallOverflowLatchesError :=
  exec_call_overflow

/-- Settles O29: the second check of `2nnn` and of `00EE`. -/
theorem illegalSpStopsCallAndRet : Obligations.IllegalSpStopsCallAndRet :=
  fun nnn s h => ⟨exec_call_illegalSp nnn s h, exec_ret_illegalSp s h⟩

/-- Settles O30: the pop reads the entry that the push wrote, and takes `sp` back. -/
theorem callThenRetResumes : Obligations.CallThenRetResumes := by
  intro nnn s h
  obtain ⟨t, hcall, hret⟩ := exec_call_ret nnn h
  refine ⟨t, _, hcall, hret, ?pc, ?steps, ?frame⟩
  case pc => simp
  case steps => simp
  case frame => exact (((Frame.refl _ s).stackSet h rfl _).setPc _).setSteps _

end Sys2Proof
end

section
/-! SUPPORT. What the shifts and `Cxkk` answer (42_alu.md R129, R131, R132). -/

namespace Sys2Proof.Safety

open Sys2Proof.Machine

theorem Frame.setDraws {w : Writes} {s t : State} (h : Frame w s t) (hw : w.draws) (n : Nat) :
    Frame w s (t.setDraws n) :=
  ⟨h.regs, h.i, h.sp, h.stack, h.dt, h.st, h.disp, fun hn => absurd hw hn, h.mem, h.keys, h.quit, h.err⟩

end Sys2Proof.Safety

namespace Sys2Proof.Machine

open Sys2Proof.Safety

/-- The state after the flag `f` is written and then `g` of `V[x]`, read after that write (10_state.md R27). -/
def flagThenUpdate (x : RegIdx) (f : Byte) (g : Byte → Byte) (s : State) : State :=
  writeReg x (g (readReg x (writeReg vf f s))) (writeReg vf f s)

/-- A step that ends so: where `V[15]` is the destination too, it is `g` of the flag. -/
theorem retire_flagThenUpdate_advance (x : RegIdx) (f : Byte) (g : Byte → Byte) (s : State) :
    ∃ t, retire (flagThenUpdate x f g (advance s)) = .next t ∧
      (x ≠ vf → readReg x t = g (readReg x s) ∧ readReg vf t = f) ∧ (x = vf → readReg vf t = g f) ∧
      FallsThrough s t ∧ Frame { regs := fun r => r = x ∨ r = vf } s t := by
  refine ⟨_, retire_eq _, fun hx => ⟨?value, ?flag⟩, fun hx => ?both, ⟨?pc, ?steps⟩, ?frame⟩
  case value => simp [flagThenUpdate, hx]
  case flag => simp [flagThenUpdate, Ne.symm hx]
  case both => simp [flagThenUpdate, hx]
  case pc => simp [flagThenUpdate]
  case steps => simp [flagThenUpdate]
  case frame =>
    exact (((Frame.refl _ s).advance.writeReg (Or.inr rfl) f).writeReg (Or.inl rfl) _).setSteps _

/-- A step that uses up an answer of the environment and ends in one register write. -/
theorem retire_writeReg_setDraws_advance (x : RegIdx) (b : Byte) (n : Nat) (s : State) :
    ∃ t, retire (writeReg x b ((advance s).setDraws n)) = .next t ∧ readReg x t = b ∧ t.draws = n ∧
      FallsThrough s t ∧ Frame { regs := fun r => r = x, draws := True } s t := by
  refine ⟨_, retire_eq _, ?value, ?draws, ⟨?pc, ?steps⟩, ?frame⟩
  case value => simp
  case draws => simp
  case pc => simp
  case steps => simp
  case frame => exact (((Frame.refl _ s).advance.setDraws trivial n).writeReg rfl b).setSteps _

theorem byte_shiftRight_one_toNat (b : Byte) : (b >>> 1).toNat = b.toNat / 2 := by
  rw [BitVec.toNat_ushiftRight, Nat.shiftRight_one]

theorem byte_shiftLeft_one_toNat (b : Byte) : (b <<< 1).toNat = 2 * b.toNat % 256 := by
  rw [BitVec.toNat_shiftLeft, Nat.shiftLeft_eq, Nat.mul_comm]

theorem shiftedOutLow_shiftRight (b : Byte) : shiftedOutLow b >>> 1 = 0 := by
  apply BitVec.eq_of_toNat_eq
  rw [byte_shiftRight_one_toNat, shiftedOutLow_toNat]
  exact Nat.div_eq_of_lt (Nat.mod_lt _ Nat.two_pos)

variable (x y : RegIdx) (s : State)

theorem exec_shr :
    exec (.shr x y) s = retire (flagThenUpdate x (shiftedOutLow (readReg x s)) (· >>> 1) (advance s)) := rfl

theorem exec_shl :
    exec (.shl x y) s = retire (flagThenUpdate x (shiftedOutHigh (readReg x s)) (· <<< 1) (advance s)) := rfl

theorem exec_rnd (kk : Byte) :
    exec (.rnd x kk) s = retire (writeReg x (Config.rnd s.draws &&& kk) ((advance s).setDraws (s.draws + 1))) :=
  rfl

end Sys2Proof.Machine
end

section
/-! SUPPORT. The statements about the shifts and `Cxkk` (42_alu.md). -/

namespace Sys2Proof

open Sys2Proof.Machine Sys2Proof.Safety

/-- Settles O41: bit 0 goes to the flag, then `V[x]` is shifted; a flag of one bit shifts to 0. -/
theorem shrShiftsOutLowBit : Obligations.ShrShiftsOutLowBit := by
  intro x y s
  rw [exec_shr]
  obtain ⟨t, ht, hvalue, hboth, hrest⟩ :=
    retire_flagThenUpdate_advance x (shiftedOutLow (readReg x s)) (· >>> 1) s
  refine ⟨t, ht, fun hx => ⟨?half, ?flag⟩, fun hx => ?both, hrest⟩
  case half => rw [(hvalue hx).1, byte_shiftRight_one_toNat]
  case flag => rw [(hvalue hx).2, shiftedOutLow_toNat]
  case both => rw [hboth hx, shiftedOutLow_shiftRight]

/-- Settles O42: bit 7 goes to the flag, then `V[x]` is shifted; a flag of one bit shifts to twice itself. -/
theorem shlShiftsOutHighBit : Obligations.ShlShiftsOutHighBit := by
  intro x y s
  rw [exec_shl]
  obtain ⟨t, ht, hvalue, hboth, hrest⟩ :=
    retire_flagThenUpdate_advance x (shiftedOutHigh (readReg x s)) (· <<< 1) s
  refine ⟨t, ht, fun hx => ⟨?double, ?flag⟩, fun hx => ?both, hrest⟩
  case double => rw [(hvalue hx).1, byte_shiftLeft_one_toNat]
  case flag => rw [(hvalue hx).2, shiftedOutHigh_toNat]
  case both =>
    have hlt : (readReg x s).toNat < 256 := (readReg x s).isLt
    rw [hboth hx, byte_shiftLeft_one_toNat, shiftedOutHigh_toNat]
    omega

/-- Settles O43: one register write, of the answer masked by `kk`. -/
theorem rndMasksFreshAnswer : Obligations.RndMasksFreshAnswer := by
  intro x kk s
  rw [exec_rnd]
  obtain ⟨t, ht, hvalue, hdraws, hrest⟩ :=
    retire_writeReg_setDraws_advance x (Config.rnd s.draws &&& kk) (s.draws + 1) s
  refine ⟨t, ht, fun k _ => ?bits, hdraws, hrest⟩
  case bits => rw [hvalue, BitVec.getLsbD_and]

end Sys2Proof
end

section
/-! SUPPORT. What `Fx1E` and `Fx29` answer, and the statements about them (43_index_memory.md). -/

namespace Sys2Proof.Machine

theorem exec_addI (x : RegIdx) (s : State) :
    exec (.addI x) s = retire ((advance s).setI (s.i + zext8 (readReg x s))) := rfl

theorem exec_ldF (x : RegIdx) (s : State) :
    exec (.ldF x) s = retire ((advance s).setI (glyphAddr (readReg x s))) := rfl

end Sys2Proof.Machine

namespace Sys2Proof

open Sys2Proof.Machine Sys2Proof.Safety

/-- Settles O45: each is one write of `I`; the sum is one of 16 bits, and five times a byte fits them. -/
theorem indexArithmetic : Obligations.IndexArithmetic := by
  intro x s
  rw [exec_addI, exec_ldF]
  constructor
  · obtain ⟨t, ht, hvalue, hrest⟩ := retire_setI_advance (s.i + zext8 (readReg x s)) s
    exact ⟨t, ht, by rw [hvalue, BitVec.toNat_add, zext8_toNat], hrest⟩
  · obtain ⟨t, ht, hvalue, hrest⟩ := retire_setI_advance (glyphAddr (readReg x s)) s
    exact ⟨t, ht, by rw [hvalue, glyphAddr_toNat], hrest⟩

end Sys2Proof
end

section
/-! SUPPORT. What `Ex9E`, `ExA1` and `Fx0A` answer, and when `Fx0A` is held (45_keypad_timers.md R191 to R194). -/

namespace Sys2Proof.Machine

section
variable {x : RegIdx} {s : State}

theorem exec_skp (h : (readReg x s).toNat < 16) :
    exec (.skp x) s = retire (skipIf (keyLevel (readReg x s).toNat s) (advance s)) :=
  if_neg (Nat.not_le.2 h)

theorem exec_sknp (h : (readReg x s).toNat < 16) :
    exec (.sknp x) s = retire (skipIf (!keyLevel (readReg x s).toNat s) (advance s)) :=
  if_neg (Nat.not_le.2 h)

theorem exec_skp_noSuchKey (h : 16 ≤ (readReg x s).toNat) :
    exec (.skp x) s = .next (s.setErr (some (.keyIndexOutOfRange (readReg x s)))) :=
  if_pos h

theorem exec_sknp_noSuchKey (h : 16 ≤ (readReg x s).toNat) :
    exec (.sknp x) s = .next (s.setErr (some (.keyIndexOutOfRange (readReg x s)))) :=
  if_pos h

variable (x)

theorem exec_ldVxK_held (h : pressedKeys s = []) : exec (.ldVxK x) s = .next s := by
  simp only [exec, execLdVxK, h, pickKey, stayHeld]

theorem exec_ldVxK_pick {k : Fin 16} (h : pickKey (pressedKeys s) = some k) :
    exec (.ldVxK x) s = retire (writeReg x (BitVec.ofNat 8 k.val) (advance s)) := by
  simp only [exec, execLdVxK, h]

end

theorem key_toNat (k : Fin 16) : (BitVec.ofNat 8 k.val).toNat = k.val := by
  rw [BitVec.toNat_ofNat]
  exact Nat.mod_eq_of_lt (Nat.lt_trans k.isLt (by decide))

/-- With a key down, `KEY_PICK` names a key that is down (R193). -/
theorem pickKey_pressedKeys {s : State} (h : ∃ k < 16, keyLevel k s = true) :
    ∃ k, pickKey (pressedKeys s) = some k ∧ keyLevel k.val s = true := by
  obtain ⟨j, hj, hdown⟩ := h
  have hmem : (⟨j, hj⟩ : Fin 16) ∈ pressedKeys s := (mem_pressedKeys s _).2 hdown
  obtain ⟨k, hk, hpick⟩ := pickKey_mem (pressedKeys s) (List.ne_nil_of_mem hmem)
  exact ⟨k, hpick, (mem_pressedKeys s k).1 hk⟩

/-- At an `Fx0A` the hold is that no key is down (R194). -/
theorem held_iff_noKeyDown {s : State} {x : RegIdx} (he : s.err = none) (hf : fetchInstr s = .ok (.ldVxK x)) :
    held s = true ↔ ∀ k < 16, keyLevel k s = false := by
  have hwait : isKeyWait (.ldVxK x) = true := rfl
  rw [held_of_fetchInstr s _ he hf, hwait, Bool.true_and, pressedKeys_isEmpty]

end Sys2Proof.Machine
end

section
/-! SUPPORT. The statements about `Ex9E`, `ExA1`, `Fx0A` and its hold (45_keypad_timers.md). -/

namespace Sys2Proof

open Sys2Proof.Machine Sys2Proof.Safety

/-- Settles O34: a key number in range gives a completed skip on the key's level, any other is E7. -/
theorem skipsOnKey : Obligations.SkipsOnKey := by
  intro x s
  refine ⟨fun h => ⟨?skp, ?sknp⟩, fun h => ⟨exec_skp_noSuchKey h, exec_sknp_noSuchKey h⟩⟩
  case skp =>
    rw [exec_skp h]
    exact retire_skipIf_advance Iff.rfl s
  case sknp =>
    rw [exec_sknp h]
    exact retire_skipIf_advance (iff_of_eq (Bool.not_eq_true' _)) s

/-- Settles O54: one register write, of the number of the key that `KEY_PICK` names. -/
theorem keyWaitReportsPressedKey : Obligations.KeyWaitReportsPressedKey := by
  intro x s hdown
  obtain ⟨k, hpick, hk⟩ := pickKey_pressedKeys hdown
  rw [exec_ldVxK_pick x hpick]
  obtain ⟨t, ht, hvalue, hrest⟩ := retire_writeReg_advance x (BitVec.ofNat 8 k.val) s
  rw [← key_toNat k, ← hvalue] at hk
  have hlt : (readReg x t).toNat < 16 := by rw [hvalue, key_toNat]; exact k.isLt
  exact ⟨t, ht, hlt, hk, fun j _ honly => honly _ hlt hk, hrest⟩

/-- Settles O12: at the `Fx0A`, held means that no key is down; ticks, `quit` and released keys press none. -/
theorem holdUntilKeyDown : Obligations.HoldUntilKeyDown := by
  intro s x he hpc hw hup
  have hf : fetchInstr s = .ok (.ldVxK x) := fetchInstr_encoded hpc hw rfl
  have hheld : ∀ t : State, t.err = s.err → t.pc = s.pc → t.mem = s.mem →
      (held t = true ↔ ∀ k < 16, keyLevel k t = false) := fun t hterr htpc htmem =>
    held_iff_noKeyDown (hterr.trans he) ((fetchInstr_congr t s htpc htmem).trans hf)
  refine ⟨?held, ?step, ?tick, ?quit, fun k hk => ⟨?keyUp, ?keyDown⟩⟩
  case held => exact (hheld s rfl rfl rfl).2 hup
  case step =>
    have hnone : pressedKeys s = [] := List.isEmpty_iff.1 ((pressedKeys_isEmpty s).2 hup)
    rw [step_fetched he hf, exec_ldVxK_held x hnone]
  case tick => exact (hheld (tick s) rfl rfl rfl).2 hup
  case quit => exact (hheld (requestQuit s) rfl rfl rfl).2 hup
  case keyUp =>
    refine (hheld (setKey k false s) rfl rfl rfl).2 fun j hj => ?_
    rw [keyLevel_setKey s k j hk]
    split_ifs
    · rfl
    · exact hup j hj
  case keyDown =>
    refine Bool.eq_false_iff.2 fun h => ?_
    have hk' := (hheld (setKey k true s) rfl rfl rfl).1 h k hk
    rw [keyLevel_setKey s k k hk, if_pos rfl] at hk'
    cases hk'

end Sys2Proof
end

section
/-! SUPPORT. A sprite read in another state, and the statements about an error of `Dxyn` and about two draws in a row
(44_display.md R173, R175). -/

namespace Sys2Proof.Safety

/-- What a sprite covers depends on the bytes of memory only. -/
theorem spriteCovers_congr {m m' : Machine.Memory} (h : ∀ a, Machine.memGet m' a = Machine.memGet m a)
    (base vx vy n cx cy : Nat) : SpriteCovers m' base vx vy n cx cy ↔ SpriteCovers m base vx vy n cx cy := by
  simp only [SpriteCovers, h]

end Sys2Proof.Safety

namespace Sys2Proof

open Sys2Proof.Machine Sys2Proof.Safety

/-- Settles O51: the range check comes first. -/
theorem drawOutsideMemoryLatchesError : Obligations.DrawOutsideMemoryLatchesError := by
  intro x y n s hpos hout
  rw [exec_drw]
  exact afterRangeCheck_outside _ s hpos hout

/-- Settles O52: the first draw keeps `I`, the coordinates and the sprite, so the second flips the same pixels; a
covered pixel is set between the draws exactly when it was clear before. -/
theorem drawTwiceRestoresDisplay : Obligations.DrawTwiceRestoresDisplay := by
  intro x y n s t u hwf hx hy hin hst htu
  obtain ⟨t', ht', hpix, -, -, -, hframe⟩ := (drawXorsCoveredPixels x y n s hwf).2 hin
  obtain rfl : t' = t := Host.Outcome.next.inj (ht'.symm.trans hst)
  have hi : t'.i = s.i := hframe.i id
  obtain ⟨u', hu', hpix', -, hflag, -, -⟩ := (drawXorsCoveredPixels x y n t' hwf).2 (hi ▸ hin)
  obtain rfl : u' = u := Host.Outcome.next.inj (hu'.symm.trans htu)
  rw [hi, hframe.regs x hx, hframe.regs y hy] at hpix' hflag
  simp only [spriteCovers_congr (fun a => hframe.mem a id)] at hpix' hflag
  refine ⟨fun cx hcx cy hcy => ?restored, hflag.trans ?collision⟩
  case restored =>
    obtain ⟨hflip, hkeep⟩ := hpix cx hcx cy hcy
    obtain ⟨hflip', hkeep'⟩ := hpix' cx hcx cy hcy
    by_cases hcov : SpriteCovers s.mem s.i.toNat (readReg x s).toNat (readReg y s).toNat n cx cy
    · rw [hflip' hcov, hflip hcov, Bool.not_not]
    · rw [hkeep' hcov, hkeep hcov]
  case collision =>
    constructor
    · rintro ⟨cx, hcx, cy, hcy, hset, hcov⟩
      rw [(hpix cx hcx cy hcy).1 hcov, Bool.not_eq_true'] at hset
      exact ⟨cx, hcx, cy, hcy, hset, hcov⟩
    · rintro ⟨cx, hcx, cy, hcy, hclear, hcov⟩
      refine ⟨cx, hcx, cy, hcy, ?_, hcov⟩
      rw [(hpix cx hcx cy hcy).1 hcov, hclear, Bool.not_false]

end Sys2Proof
end

section
/-! SUPPORT. What `exec` can answer, said once by the fields it writes: held, an error latched, completed, or stopped
at an `sp` above 16. -/

namespace Sys2Proof.Machine

/-- The instructions that may write `V[15]` (10_state.md R22): as the flag, or as a destination that they name. -/
def WritesFlag (i : Instr) : Prop :=
  (∃ x y, i = .addReg x y ∨ i = .sub x y ∨ i = .shr x y ∨ i = .subn x y ∨ i = .shl x y) ∨
  (∃ x y n, i = .drw x y n) ∨
  (∃ kk, i = .ldImm vf kk ∨ i = .addImm vf kk ∨ i = .rnd vf kk) ∨
  (∃ y, i = .ldReg vf y ∨ i = .orReg vf y ∨ i = .andReg vf y ∨ i = .xorReg vf y) ∨
  i = .ldVxDt vf ∨ i = .ldVxK vf ∨ i = .ldRegs vf

/-- What a completion of `i` from `s` can leave, the step count aside. Each constructor writes `pc` and the fields of
its name, and says which instructions do; a write of `pc` alone is open to all. -/
inductive Completes (s : State) (i : Instr) : State → Prop where
  | skip (c : Bool) : Completes s i (skipIf c (advance s))
  | jump (a : Word) (ha : a.toNat ≤ 0x10FE) : Completes s i ((advance s).setPc a)
  | ret (hi : i = .ret) (hpos : 0 < s.sp.toNat) (hle : s.sp.toNat ≤ 16) :
      Completes s i (((advance s).setSp (s.sp - 1)).setPc (stackGet (s.sp.toNat - 1) s))
  | call (nnn : Addr12) (hi : i = .call nnn) (hlt : s.sp.toNat < 16) :
      Completes s i (((stackSet s.sp.toNat (s.pc + 2) (advance s)).setSp (s.sp + 1)).setPc (zext12 nnn))
  | registers (v : Vector Byte Config.nReg) (n : Nat)
      (hv : readReg vf (s.setV v) ≠ readReg vf s → WritesFlag i) : Completes s i (((advance s).setV v).setDraws n)
  | index (a : Word) (hi : (∃ nnn, i = .ldI nnn) ∨ ∃ x, i = .addI x ∨ i = .ldF x) :
      Completes s i ((advance s).setI a)
  | clear (d : Display) (hi : i = .cls) : Completes s i ((advance s).setDisp d)
  | draw (f : Byte) (d : Display) (hi : ∃ x y n, i = .drw x y n) :
      Completes s i (writeReg vf f ((advance s).setDisp d))
  | store (bs : List Byte) (hi : ∃ x, i = .ldB x ∨ i = .stRegs x) (hend : s.i.toNat + bs.length ≤ 4096) :
      Completes s i ((advance s).setMem (storeBytes s.mem s.i.toNat bs))
  | delayTimer (b : Byte) (hi : ∃ x, i = .ldDtVx x) : Completes s i ((advance s).setDt b)
  | soundTimer (b : Byte) (hi : ∃ x, i = .ldStVx x) : Completes s i ((advance s).setSt b)

/-- The answers that `i` may give from `s`. -/
inductive Answers (s : State) (i : Instr) : Host.Outcome State Fault Refusal → Prop where
  | held : Answers s i (.next s)
  | latches (e : Err) : Answers s i (.next (s.setErr (some e)))
  | completes {u : State} (h : Completes s i u) : Answers s i (retire u)
  | stops (f : Fault) (h : 16 < s.sp.toNat) : Answers s i (.fault f)

section
variable {s : State} {i : Instr}

theorem Completes.writeReg {x : RegIdx} (hx : x = vf → WritesFlag i) (b : Byte) (n : Nat) :
    Completes s i (writeReg x b ((advance s).setDraws n)) := by
  refine .registers (s.v.set x.toNat b x.isLt) n fun hne => hx ?_
  by_contra hxvf
  exact hne ((readReg_writeReg s x vf b).trans (if_neg (Ne.symm hxvf)))

theorem answers_writeReg {x : RegIdx} (hx : x = vf → WritesFlag i) (b : Byte) :
    Answers s i (retire (Machine.writeReg x b (advance s))) :=
  .completes (.writeReg hx b s.draws)

theorem answers_setV (v : Vector Byte Config.nReg) (hv : readReg vf (s.setV v) ≠ readReg vf s → WritesFlag i) :
    Answers s i (retire ((advance s).setV v)) :=
  .completes (.registers v s.draws hv)

theorem answers_afterRangeCheck {base count : Nat} {effect : Host.Outcome State Fault Refusal}
    (h : (0 < count → base + count ≤ 4096) → Answers s i effect) :
    Answers s i (afterRangeCheck base count effect s) := by
  by_cases hin : 0 < count → base + count ≤ 4096
  · rw [afterRangeCheck_inside effect s hin]
    exact h hin
  · rw [Classical.not_imp, Nat.not_le] at hin
    rw [afterRangeCheck_outside effect s hin.1 hin.2]
    exact .latches _

end

/-- `V[15]` is the last register. -/
theorem vf_le_iff {x : RegIdx} : vf.toNat ≤ x.toNat ↔ x = vf := by
  revert x
  decide

theorem exec_answers (i : Instr) (s : State) : Answers s i (exec i s) := by
  cases i
  case nop => exact .completes (.skip false)
  case cls => exact .completes (.clear _ rfl)
  case ret =>
    rcases Nat.eq_zero_or_pos s.sp.toNat with hzero | hpos
    · rw [exec_ret_underflow s hzero]; exact .latches _
    rcases Nat.lt_or_ge 16 s.sp.toNat with hgt | hle
    · rw [exec_ret_illegalSp s hgt]; exact .stops _ hgt
    · rw [exec_ret_pop s hpos hle]; exact .completes (.ret rfl hpos hle)
  case call nnn =>
    rcases Nat.lt_trichotomy s.sp.toNat 16 with hlt | heq | hgt
    · rw [exec_call_push nnn s hlt]; exact .completes (.call nnn rfl hlt)
    · rw [exec_call_overflow nnn s heq]; exact .latches _
    · rw [exec_call_illegalSp nnn s hgt]; exact .stops _ hgt
  case jp nnn =>
    have hnnn : nnn.toNat < 4096 := nnn.isLt
    exact .completes (.jump (zext12 nnn) (by rw [zext12_toNat]; omega))
  case jpV0 nnn =>
    have hnnn : nnn.toNat < 4096 := nnn.isLt
    have hoff : (readReg v0 s).toNat < 256 := (readReg v0 s).isLt
    exact .completes (.jump (zext12 nnn + zext8 (readReg v0 s)) (by rw [zext12_add_zext8_toNat]; omega))
  case seImm | sneImm | seReg | sneReg => exact .completes (.skip _)
  case skp x =>
    rcases Nat.lt_or_ge (readReg x s).toNat 16 with hlt | hge
    · rw [exec_skp hlt]; exact .completes (.skip _)
    · rw [exec_skp_noSuchKey hge]; exact .latches _
  case sknp x =>
    rcases Nat.lt_or_ge (readReg x s).toNat 16 with hlt | hge
    · rw [exec_sknp hlt]; exact .completes (.skip _)
    · rw [exec_sknp_noSuchKey hge]; exact .latches _
  case ldImm | addImm | ldReg | orReg | andReg | xorReg | ldVxDt =>
    exact answers_writeReg (by rintro rfl; simp [WritesFlag]) _
  case rnd x kk => exact .completes (.writeReg (by rintro rfl; simp [WritesFlag]) _ _)
  case ldVxK x =>
    cases hpick : pickKey (pressedKeys s) with
    | none =>
      have hnone : pressedKeys s = [] := by simpa [hpick] using pickKey_isSome (pressedKeys s)
      rw [exec_ldVxK_held x hnone]; exact .held
    | some k =>
      rw [exec_ldVxK_pick x hpick]; exact answers_writeReg (by rintro rfl; simp [WritesFlag]) _
  case addReg | sub | subn | shr | shl => exact answers_setV _ fun _ => by simp [WritesFlag]
  case ldI nnn => exact .completes (.index _ (.inl ⟨nnn, rfl⟩))
  case addI x => exact .completes (.index _ (.inr ⟨x, .inl rfl⟩))
  case ldF x => exact .completes (.index _ (.inr ⟨x, .inr rfl⟩))
  case drw x y n => exact answers_afterRangeCheck fun _ => .completes (.draw _ _ ⟨x, y, n, rfl⟩)
  case ldB x => exact answers_afterRangeCheck fun hin => .completes (.store _ ⟨x, .inl rfl⟩ (hin (by decide)))
  case stRegs x =>
    refine answers_afterRangeCheck fun hin => .completes (.store _ ⟨x, .inr rfl⟩ ?_)
    rw [regBytes_length]
    exact hin (Nat.succ_pos _)
  case ldRegs x =>
    refine answers_afterRangeCheck fun _ => answers_setV _ fun hne => ?_
    rw [readReg_loadedRegs, ne_eq, ite_eq_right_iff, Classical.not_imp] at hne
    rw [vf_le_iff.1 hne.1]
    simp [WritesFlag]
  case ldDtVx x => exact .completes (.delayTimer _ ⟨x, rfl⟩)
  case ldStVx x => exact .completes (.soundTimer _ ⟨x, rfl⟩)

/-- What an instruction that answers a next state did. -/
theorem exec_next {i : Instr} {s t : State} (h : exec i s = .next t) :
    t = s ∨ (∃ e, t = s.setErr (some e)) ∨ ∃ u, Completes s i u ∧ t = u.setSteps (u.steps + 1) := by
  have hanswers := exec_answers i s
  rw [h] at hanswers
  cases hanswers with
  | held => exact .inl rfl
  | latches e => exact .inr (.inl ⟨e, rfl⟩)
  | completes hu => exact .inr (.inr ⟨_, hu, rfl⟩)

theorem exec_answers_next (i : Instr) {s : State} (h : s.sp.toNat ≤ 16) : ∃ t, exec i s = .next t := by
  have hanswers := exec_answers i s
  generalize exec i s = o at hanswers
  cases hanswers with
  | held => exact ⟨_, rfl⟩
  | latches e => exact ⟨_, rfl⟩
  | completes hu => exact ⟨_, rfl⟩
  | stops f hgt => exact absurd h (Nat.not_le.2 hgt)

end Sys2Proof.Machine
end

section
/-! SUPPORT. The statements about which instruction writes which field (10_state.md). -/

namespace Sys2Proof

open Sys2Proof.Machine Sys2Proof.Safety

/-- Settles O21: a completion that writes one of the seven fields names its instruction. -/
theorem fieldsHaveTheirWriters : Obligations.FieldsHaveTheirWriters := by
  intro i s t h
  rcases exec_next h with rfl | ⟨e, rfl⟩ | ⟨u, hu, rfl⟩
  · simp
  · simp
  · cases hu with
    | skip c => simp
    | jump a ha => simp
    | ret hi => simp [hi]
    | call nnn hi => simp [hi]
    | registers v n => simp
    | index a hi => simp [hi]
    | clear d hi => simp [hi]
    | draw f d hi => simp [hi]
    | store bs hi => simp [hi]
    | delayTimer b hi => simp [hi]
    | soundTimer b hi => simp [hi]

/-- Settles O22: a completion changes `V[15]` by a write of the register file or of a draw's flag. -/
theorem flagHasItsWriters : Obligations.FlagHasItsWriters := by
  intro i s t h hne
  rcases exec_next h with rfl | ⟨e, rfl⟩ | ⟨u, hu, rfl⟩
  · exact absurd rfl hne
  · exact absurd rfl hne
  · cases hu with
    | registers v n hv => exact hv hne
    | draw f d hi => exact .inr (.inl hi)
    | skip c => simp at hne
    | jump | ret | call | index | clear | store | delayTimer | soundTimer => exact absurd rfl hne

end Sys2Proof
end

section
/-! SUPPORT. What keeps the invariant: updates of other fields, the advance from a fetched `pc`, a completion, and the
memory that `load` leaves (10_state.md R24, R26). -/

namespace Sys2Proof.Safety

open Sys2Proof.Machine

section
variable {s t u : State}

theorem MachineInv.congr (h : MachineInv s) (hmem : t.mem = s.mem) (hsp : t.sp = s.sp) (hpc : t.pc.toNat ≤ 0x10FE)
    (hstack : ∀ k, stackGet k t = stackGet k s) : MachineInv t where
  memWf := hmem ▸ h.memWf
  spLe := hsp ▸ h.spLe
  pcLe := hpc
  stackLe k hk := hstack k ▸ h.stackLe k hk
  stackEven k hk := hstack k ▸ h.stackEven k hk

theorem MachineInv.setMem (h : MachineInv s) {m : Memory} (hm : Memory.wf m = true) : MachineInv (s.setMem m) :=
  ⟨hm, h.spLe, h.pcLe, h.stackLe, h.stackEven⟩

theorem MachineInv.setPc (h : MachineInv s) {a : Word} (ha : a.toNat ≤ 0x10FE) : MachineInv (s.setPc a) :=
  h.congr rfl rfl ha fun _ => rfl

theorem MachineInv.setSp (h : MachineInv s) {b : Byte} (hb : b.toNat ≤ 16) : MachineInv (s.setSp b) :=
  ⟨h.memWf, hb, h.pcLe, h.stackLe, h.stackEven⟩

theorem MachineInv.stackSet (h : MachineInv s) {j : Nat} (hj : j < 16) {a : Word} (hle : a.toNat ≤ 0x1000)
    (heven : a.toNat % 2 = 0) : MachineInv (stackSet j a s) := by
  refine ⟨h.memWf, h.spLe, h.pcLe, fun k hk => ?le, fun k hk => ?even⟩ <;> rw [stackGet_stackSet s j k hj]
  case le => split_ifs; exacts [hle, h.stackLe k hk]
  case even => split_ifs; exacts [heven, h.stackEven k hk]

theorem pc_add_two_toNat (hpc : Fetchable s) : (s.pc + 2).toNat = s.pc.toNat + 2 := by
  have hlt := hpc.2
  rw [BitVec.toNat_add]
  exact Nat.mod_eq_of_lt (by simp; omega)

theorem MachineInv.advance (h : MachineInv s) (hpc : Fetchable s) : MachineInv (Machine.advance s) :=
  h.setPc (by rw [pc_add_two_toNat hpc]; have := hpc.2; omega)

theorem MachineInv.skipIf (h : MachineInv s) (hpc : Fetchable s) (c : Bool) :
    MachineInv (Machine.skipIf c (Machine.advance s)) := by
  cases c with
  | false => exact h.advance hpc
  | true =>
    refine (h.advance hpc).setPc ?_
    have hlt := hpc.2
    rw [advance_pc, BitVec.toNat_add, pc_add_two_toNat hpc]
    exact Nat.le_trans (Nat.mod_le _ _) (by simp; omega)

/-- An instruction that completes from a fetched `pc` keeps the invariant. -/
theorem MachineInv.completes (h : MachineInv s) (hpc : Fetchable s) {i : Instr} (hu : Completes s i u) :
    MachineInv u := by
  have hadv := h.advance hpc
  cases hu with
  | skip c => exact h.skipIf hpc c
  | jump a ha => exact hadv.setPc ha
  | ret hi hpos hle =>
    have hentry := h.stackLe (s.sp.toNat - 1) (by omega)
    exact (hadv.setSp (by rw [sp_pred_toNat s hpos]; omega)).setPc (by omega)
  | call nnn hi hlt =>
    have hnext := pc_add_two_toNat hpc
    obtain ⟨heven, hlow⟩ := hpc
    have htarget : nnn.toNat < 4096 := nnn.isLt
    exact ((hadv.stackSet hlt (by omega) (by omega)).setSp (by rw [sp_succ_toNat hlt]; omega)).setPc
      (by rw [zext12_toNat]; omega)
  | store bs hi hend => exact hadv.setMem (memory_wf_storeBytes bs s.mem h.memWf _ hend)
  | registers | index | clear | draw | delayTimer | soundTimer =>
    exact hadv.congr rfl rfl hadv.pcLe fun _ => rfl

theorem fetchable_of_fetchInstr {i : Instr} (h : fetchInstr s = .ok i) : Fetchable s := by
  obtain ⟨heven, hlow, -⟩ := fetchInstr_ok s i h
  exact ⟨heven, hlow⟩

end

end Sys2Proof.Safety

namespace Sys2Proof.Machine

section
variable {s t : State}

theorem loadWith_tooLong (font : Vector Byte 80) {rom : List Byte} (s : State) (h : 3584 < rom.length) :
    loadWith font rom s = .refused (.romTooLong rom.length) :=
  if_neg fun hfits => Nat.not_le.2 h (of_decide_eq_true hfits)

theorem load_next {rom : List Byte} (h : load rom s = .next t) :
    rom.length ≤ 3584 ∧ t = s.setMem (loadedMem Config.font rom s.mem) := by
  rcases Nat.lt_or_ge 3584 rom.length with hlong | hfits
  · rw [load, loadWith_tooLong Config.font s hlong] at h
    cases h
  · rw [load, loadWith_fits Config.font s hfits] at h
    exact ⟨hfits, (Host.Outcome.next.inj h).symm⟩

theorem keyDown_exists {k : Nat} (h : k < 16) : keyDown k s = .next (setKey k true s) :=
  if_pos (decide_eq_true h)

theorem keyUp_exists {k : Nat} (h : k < 16) : keyUp k s = .next (setKey k false s) :=
  if_pos (decide_eq_true h)

theorem keyDown_noSuchKey {k : Nat} (h : 16 ≤ k) : keyDown k s = .refused (.noSuchKey k) :=
  if_neg fun hexists => Nat.not_lt.2 h (of_decide_eq_true hexists)

theorem keyUp_noSuchKey {k : Nat} (h : 16 ≤ k) : keyUp k s = .refused (.noSuchKey k) :=
  if_neg fun hexists => Nat.not_lt.2 h (of_decide_eq_true hexists)

theorem keyDown_next {k : Nat} (h : keyDown k s = .next t) : t = setKey k true s := by
  rcases Nat.lt_or_ge k 16 with hlt | hge
  · rw [keyDown_exists hlt] at h
    exact (Host.Outcome.next.inj h).symm
  · rw [keyDown_noSuchKey hge] at h
    cases h

theorem keyUp_next {k : Nat} (h : keyUp k s = .next t) : t = setKey k false s := by
  rcases Nat.lt_or_ge k 16 with hlt | hge
  · rw [keyUp_exists hlt] at h
    exact (Host.Outcome.next.inj h).symm
  · rw [keyUp_noSuchKey hge] at h
    cases h

theorem memory_wf_loadedMem (font : Vector Byte 80) {rom : List Byte} {m : Memory} (hm : Memory.wf m = true)
    (hrom : rom.length ≤ 3584) : Memory.wf (loadedMem font rom m) = true :=
  memory_wf_storeBytes rom _ (memory_wf_fontStored font hm) 0x200 (rom_inside_memory hrom)

end

end Sys2Proof.Machine
end

section
/-! SUPPORT. The statements about the invariant (10_state.md R24, R26, R40). -/

namespace Sys2Proof

open Sys2Proof.Machine Sys2Proof.Safety

/-- Settles O13: every clause is about fixed values. -/
theorem resetMeetsInv : Obligations.ResetMeetsInv :=
  ⟨memory_wf_reset, by decide, by decide, by decide, by decide⟩

/-- Settles O14: a halted, failed or held step writes at most the latch, and an instruction completes from a `pc` that
was fetched from, which bounds the advanced `pc`. -/
theorem stepKeepsInv : Obligations.StepKeepsInv := by
  intro s t hs h
  have hlatch : ∀ e, MachineInv (s.setErr (some e)) := fun e => hs.congr rfl rfl hs.pcLe fun _ => rfl
  rcases step_next_cases s t h with ⟨e, -, rfl⟩ | ⟨e, -, -, rfl⟩ | ⟨i, -, hf, hi⟩
  · exact hs
  · exact hlatch e
  · rcases exec_next hi with rfl | ⟨e, rfl⟩ | ⟨u, hu, rfl⟩
    · exact hs
    · exact hlatch e
    · have hinv := hs.completes (fetchable_of_fetchInstr hf) hu
      exact hinv.congr rfl rfl hinv.pcLe fun _ => rfl

/-- Settles O15: only an `sp` above 16 stops an instruction. -/
theorem stepAlwaysAnswersNext : Obligations.StepAlwaysAnswersNext := by
  intro s hs
  rcases step_cases s with ⟨e, -, hstep⟩ | ⟨e, -, -, hstep⟩ | ⟨i, -, -, hstep⟩ <;> rw [hstep]
  · exact ⟨_, rfl⟩
  · exact ⟨_, rfl⟩
  · exact exec_answers_next i hs.spLe

/-- Settles O16: by the transaction; those but `reset`, `load` and `step` write no field that the invariant reads. -/
theorem transactionsKeepInv : Obligations.TransactionsKeepInv := by
  intro tr s t hs h
  cases tr with
  | reset => cases h; exact resetMeetsInv.congr rfl rfl resetMeetsInv.pcLe fun _ => rfl
  | load rom =>
    obtain ⟨hrom, rfl⟩ := load_next h
    exact hs.setMem (memory_wf_loadedMem Config.font hs.memWf hrom)
  | step => exact stepKeepsInv s t hs h
  | quit => cases h; exact hs.congr rfl rfl hs.pcLe fun _ => rfl
  | keyDown k => rw [keyDown_next h]; exact hs.congr rfl rfl hs.pcLe fun _ => rfl
  | keyUp k => rw [keyUp_next h]; exact hs.congr rfl rfl hs.pcLe fun _ => rfl
  | tick => cases h; exact hs.congr rfl rfl hs.pcLe fun _ => rfl

/-- Settles O17: by induction on the execution; the boot's `load`, the steps and the events are transactions. -/
theorem reachableStatesMeetInv : Obligations.ReachableStatesMeetInv := by
  intro s hs
  induction hs with
  | boot d rom t h =>
    have hboot : MachineInv (State.reset.setDraws d) :=
      resetMeetsInv.congr rfl rfl resetMeetsInv.pcLe fun _ => rfl
    exact transactionsKeepInv (.load rom) _ t hboot h
  | step s t _ h ih => exact stepKeepsInv s t ih h
  | event s e _ ih =>
    cases e with
    | tick => exact transactionsKeepInv .tick s _ ih rfl
    | keyDown k => exact transactionsKeepInv (.keyDown k.val) s _ ih (keyDown_exists k.isLt)
    | keyUp k => exact transactionsKeepInv (.keyUp k.val) s _ ih (keyUp_exists k.isLt)
    | quit => exact transactionsKeepInv .quit s _ ih rfl

end Sys2Proof
end

section
/-! SUPPORT. What a step keeps of the key flags, and an array of one value read back. -/

namespace Sys2Proof.Machine

/-- A step keeps the key flags (10_state.md R33). -/
theorem step_keys (s t : State) (h : step s = .next t) : t.keys = s.keys := by
  rcases step_next_cases s t h with ⟨e, -, rfl⟩ | ⟨e, -, -, rfl⟩ | ⟨i, -, -, hi⟩
  · rfl
  · rfl
  · rcases exec_next_cases i s t hi with ⟨-, -, hkeys, -⟩ | ⟨e, rfl, -⟩ | ⟨rfl, -⟩
    · exact hkeys
    · rfl
    · rfl

/-- Where every entry is the default value, in or out of range is the same. -/
theorem replicate_getElem?_getD {α : Type} (n k : Nat) (a : α) : (Vector.replicate n a)[k]?.getD a = a := by
  rw [Vector.getElem?_replicate]
  split <;> rfl

end Sys2Proof.Machine
end

section
/-! SUPPORT. The statements about errors, the step counter, and the fields written from outside (60_exceptions.md R222,
R223; 10_state.md R33, R35, R36). -/

namespace Sys2Proof

open Sys2Proof.Machine Sys2Proof.Safety

/-- Settles O11: by the transaction; those but `reset` and `step` do not write the latch, and a step stays as it is. -/
theorem haltedUntilReset : Obligations.HaltedUntilReset := by
  intro s e he
  have hstep := step_halted he
  refine ⟨hstep, rfl, fun tr t hne h => ?_⟩
  cases tr with
  | reset => exact absurd rfl hne
  | load rom => obtain ⟨-, rfl⟩ := load_next h; exact he
  | step => cases hstep.symm.trans h; exact he
  | quit => cases h; exact he
  | keyDown k => rw [keyDown_next h]; exact he
  | keyUp k => rw [keyUp_next h]; exact he
  | tick => cases h; exact he

/-- Settles O18: only an error of the fetch or one that the instruction raised makes the latch differ. -/
theorem errorsArePrecise : Obligations.ErrorsArePrecise := by
  intro s t h hne
  rcases step_next_cases s t h with ⟨e, -, rfl⟩ | ⟨e, he, hf, rfl⟩ | ⟨i, he, -, hi⟩
  · exact absurd rfl hne
  · exact ⟨he, e, rfl, errCode_of_fetchInstr hf⟩
  · rcases exec_next_cases i s t hi with ⟨-, hkept, -⟩ | ⟨e, rfl, hcode⟩ | ⟨rfl, -⟩
    · exact absurd hkept hne
    · exact ⟨he, e, rfl, hcode⟩
    · exact absurd rfl hne

/-- Settles O19: by what the step was; for the instruction fetched, held is what `exec` waits for. -/
theorem stepsCountCompletedSteps : Obligations.StepsCountCompletedSteps := by
  intro s t h
  rcases step_next_cases s t h with ⟨e, he, rfl⟩ | ⟨e, he, -, rfl⟩ | ⟨i, he, hf, hi⟩
  · exact .inr ⟨rfl, .inl ⟨rfl, .inl (by simp [he])⟩⟩
  · exact .inr ⟨rfl, .inr ⟨he, e, rfl⟩⟩
  · have hheld := held_of_fetchInstr s i he hf
    rcases exec_next_cases i s t hi with ⟨hsteps, herr, -, -, hrun⟩ | ⟨e, rfl, -⟩ | ⟨rfl, hwait⟩
    · exact .inl ⟨hsteps, he, herr.trans he, hheld.trans hrun⟩
    · exact .inr ⟨rfl, .inr ⟨he, e, rfl⟩⟩
    · exact .inr ⟨rfl, .inl ⟨rfl, .inr (hheld.trans hwait)⟩⟩

/-- Settles O20: by the transaction. -/
theorem keysAndQuitChangeOnlyFromOutside : Obligations.KeysAndQuitChangeOnlyFromOutside := by
  intro tr s t h
  cases tr with
  | reset => exact ⟨fun _ => .inl rfl, fun _ => .inl rfl⟩
  | load rom =>
    obtain ⟨-, rfl⟩ := load_next h
    exact ⟨fun hne => absurd rfl hne, fun hne => absurd rfl hne⟩
  | step => exact ⟨fun hne => absurd (step_keys s t h) hne, fun hne => absurd (step_quit s t h) hne⟩
  | quit => cases h; exact ⟨fun hne => absurd rfl hne, fun _ => .inr rfl⟩
  | keyDown k =>
    rw [keyDown_next h]
    exact ⟨fun _ => .inr (.inl ⟨k, rfl⟩), fun hne => absurd rfl hne⟩
  | keyUp k =>
    rw [keyUp_next h]
    exact ⟨fun _ => .inr (.inr ⟨k, rfl⟩), fun hne => absurd rfl hne⟩
  | tick => cases h; exact ⟨fun hne => absurd rfl hne, fun hne => absurd rfl hne⟩

end Sys2Proof
end

section
/-! SUPPORT. The statements about ticks, key events, `load` and `reset` (45_keypad_timers.md R198 to R200,
70_reset_and_hazards.md R260, R263). -/

namespace Sys2Proof

open Sys2Proof.Machine Sys2Proof.Safety

/-- Settles O55: by induction on the ticks; one tick takes 1 from each timer, floored at 0. -/
theorem ticksCountDownToZero : Obligations.TicksCountDownToZero := by
  intro k s
  refine ⟨_, rfl, ?_⟩
  induction k with
  | zero => exact ⟨rfl, rfl, rfl, rfl, Frame.refl _ s⟩
  | succ k ih =>
    obtain ⟨hdt, hst, hpc, hsteps, hframe⟩ := ih
    rw [Function.iterate_succ_apply']
    refine ⟨?dt, ?st, hpc, hsteps, (hframe.setDt trivial _).setSt trivial _⟩
    case dt => rw [tick_dt, countDown_toNat, hdt, Nat.sub_sub]
    case st => rw [tick_st, countDown_toNat, hst, Nat.sub_sub]

/-- Settles O56: a key below 16 has a flag to write, any other is refused. -/
theorem keyEventsSetOneFlag : Obligations.KeyEventsSetOneFlag := by
  intro k s
  refine ⟨fun hk => ⟨keyDown_exists hk, keyUp_exists hk, fun b => ⟨rfl, fun j _ => ?level⟩⟩,
    fun hk => ⟨keyDown_noSuchKey hk, keyUp_noSuchKey hk⟩⟩
  case level => exact keyLevel_setKey s k j hk b

/-- Settles O58: the length is the first check of `load`. -/
theorem longRomIsRefused : Obligations.LongRomIsRefused :=
  fun _ s h => loadWith_tooLong Config.font s h

/-- Settles O59: field by field of the reset state; each array is one value throughout. -/
theorem resetLeavesResetValues : Obligations.ResetLeavesResetValues := by
  intro s
  refine ⟨_, rfl, fun _ => rfl, fun cx _ cy _ => pixel_replicate_false cx cy, rfl, fun r => ?regs, rfl, rfl,
    fun k hk => ?stack, rfl, rfl, fun k hk => ?keys, rfl, rfl, rfl, rfl⟩
  case regs => exact Vector.getElem_replicate r.isLt
  case stack => exact replicate_getElem?_getD _ k _
  case keys => exact replicate_getElem?_getD _ k _

end Sys2Proof
end

section
/-! SUPPORT. One turn of the loop of `run`, a hold waited out, and the statement about `run` (60_exceptions.md R236). -/

namespace Sys2Proof.Machine

/-- A turn of the loop: the test passed, events, the step, events, and the next test ahead. -/
theorem run_turn {s t : State} (pre post : List EnvEvent) (rest : List RunMove) (hq : s.quit = false)
    (he : s.err = none) (hheld : held (applyEvents s pre) = false) (hstep : step (applyEvents s pre) = .next t) :
    run (.loop :: pre.map .event ++ .loop :: post.map .event ++ .loop :: rest) s =
      runFrom .test (.loop :: rest) (applyEvents t post) := by
  rw [run, List.append_assoc, List.cons_append, List.cons_append, runFrom_test_pass _ _ hq he, runFrom_events,
    runFrom_step_next _ _ _ hheld hstep, runFrom_events]

/-- However often the loop acts, a hold keeps it waiting (45_keypad_timers.md R194). -/
theorem runFrom_step_waits {s : State} (hheld : held s = true) (k : Nat) :
    runFrom .step (List.replicate k .loop) s = .unfinished s := by
  induction k with
  | zero => rfl
  | succ k ih => rw [List.replicate_succ, runFrom_step_held _ _ hheld, ih]

end Sys2Proof.Machine

namespace Sys2Proof

open Sys2Proof.Machine

/-- Settles O60: the turn's step keeps `quit`, so the next test sees it exactly when an event of the turn set it. -/
theorem runStopsAfterAtMostOneStep : Obligations.RunStopsAfterAtMostOneStep := by
  refine ⟨runFrom_test_quit, fun pre post rest s t hq he hheld hstep => ?turn, fun es k s hq he hheld => ?hold⟩
  case turn =>
    have hquit : (applyEvents t post).quit = decide (EnvEvent.quit ∈ pre ++ post) := by
      rw [applyEvents_quit, step_quit _ _ hstep, applyEvents_quit, hq]
      simp
    rw [run_turn pre post rest hq he hheld hstep]
    refine ⟨fun hmem => ?stopped, fun hmem e hterr => ?error⟩
    case stopped => exact runFrom_test_quit rest _ (hquit.trans (decide_eq_true hmem))
    case error =>
      exact runFrom_test_err rest _ e (hquit.trans (decide_eq_false hmem)) ((applyEvents_err t post).trans hterr)
  case hold =>
    rw [run, List.cons_append, runFrom_test_pass _ _ hq he, runFrom_events, runFrom_step_waits hheld]

end Sys2Proof
end
